-- ==== Sys2Proof/Word.lean ====
section
/-! DEFINITION. The plain values of the Gulmet 460: bytes, addresses, lines, the names of ports and of
the four places of a table, and records with one value per port or per place. -/

namespace Sys2Proof

/-- One byte of memory. -/
abbrev Byte := BitVec 8

/-- A memory word of four bytes, little-endian (00, Conventions). -/
abbrev Word := BitVec 32

/-- A memory address, 28 bits (00, Conventions; R102). -/
abbrev Addr := BitVec 28

/-- An upstream address: the view selector in bits 31 to 28 above a memory address (R102). -/
abbrev UpAddr := BitVec 32

/-- A granule number: granule g covers the addresses g × 4096 to g × 4096 + 4095 (R104). -/
abbrev Granule := BitVec 16

/-- The 32 bytes of a line: byte i stands in bits 8 i to 8 i + 7. -/
abbrev LineData := BitVec 256

/-- A set of byte positions 0 to 31 within a line: bit i is position i (R1). -/
abbrev Mask := BitVec 32

/-- The six upstream ports U0 to U5. -/
inductive Port where
  | u0 | u1 | u2 | u3 | u4 | u5
  deriving DecidableEq, Repr

/-- The number of a port. -/
def Port.index : Port → Nat
  | .u0 => 0 | .u1 => 1 | .u2 => 2 | .u3 => 3 | .u4 => 4 | .u5 => 5

/-- The port after this one, modulo 6 (R96). -/
def Port.next : Port → Port
  | .u0 => .u1 | .u1 => .u2 | .u2 => .u3 | .u3 => .u4 | .u4 => .u5 | .u5 => .u0

/-- The ports in ascending order. -/
def Port.all : List Port := [.u0, .u1, .u2, .u3, .u4, .u5]

/-- The four places of a table: slots S0 to S3, claims C0 to C3, line entries E0 to E3, and the four
generations 0 to 3 of a slot. -/
inductive Ix4 where
  | i0 | i1 | i2 | i3
  deriving DecidableEq, Repr

/-- The place after this one, modulo 4 (R86). -/
def Ix4.next : Ix4 → Ix4
  | .i0 => .i1 | .i1 => .i2 | .i2 => .i3 | .i3 => .i0

/-- The four places in ascending order. -/
def Ix4.all : List Ix4 := [.i0, .i1, .i2, .i3]

/-- One value for each port. -/
structure PerPort (α : Type) where
  u0 : α
  u1 : α
  u2 : α
  u3 : α
  u4 : α
  u5 : α
  deriving DecidableEq, Repr

def PerPort.get {α : Type} (v : PerPort α) : Port → α
  | .u0 => v.u0 | .u1 => v.u1 | .u2 => v.u2 | .u3 => v.u3 | .u4 => v.u4 | .u5 => v.u5

def PerPort.set {α : Type} (v : PerPort α) (p : Port) (x : α) : PerPort α :=
  match p with
  | .u0 => { v with u0 := x }
  | .u1 => { v with u1 := x }
  | .u2 => { v with u2 := x }
  | .u3 => { v with u3 := x }
  | .u4 => { v with u4 := x }
  | .u5 => { v with u5 := x }

def PerPort.map {α β : Type} (f : α → β) (v : PerPort α) : PerPort β :=
  ⟨f v.u0, f v.u1, f v.u2, f v.u3, f v.u4, f v.u5⟩

/-- The same value for every port. -/
def PerPort.const {α : Type} (x : α) : PerPort α := ⟨x, x, x, x, x, x⟩

/-- One value for each of four places. -/
structure Quad (α : Type) where
  i0 : α
  i1 : α
  i2 : α
  i3 : α
  deriving DecidableEq, Repr

def Quad.get {α : Type} (v : Quad α) : Ix4 → α
  | .i0 => v.i0 | .i1 => v.i1 | .i2 => v.i2 | .i3 => v.i3

def Quad.set {α : Type} (v : Quad α) (i : Ix4) (x : α) : Quad α :=
  match i with
  | .i0 => { v with i0 := x }
  | .i1 => { v with i1 := x }
  | .i2 => { v with i2 := x }
  | .i3 => { v with i3 := x }

def Quad.map {α β : Type} (f : α → β) (v : Quad α) : Quad β :=
  ⟨f v.i0, f v.i1, f v.i2, f v.i3⟩

/-- The same value for every place. -/
def Quad.const {α : Type} (x : α) : Quad α := ⟨x, x, x, x⟩

end Sys2Proof
end

