-- ==== Sys2Proof/Syntax.lean ====
section
/-! DEFINITION. The commands of the part: one constructor for each row of spec/opcode_table.json, with the
operands the link or line carries. -/

namespace Sys2Proof

/-- The operation of a request on a port link (R116). -/
inductive Operation where
  | read | write
  deriving DecidableEq, Repr

/-- The size of an upstream access: 1, 2, 4 or 32 bytes (R116). -/
inductive Size where
  | b1 | b2 | b4 | b32
  deriving DecidableEq, Repr

/-- The size in bytes. -/
def Size.bytes : Size → Nat
  | .b1 => 1 | .b2 => 2 | .b4 => 4 | .b32 => 32

/-- The tag of a downstream operation: the slot number and the issue generation (R86). -/
structure Tag where
  slot : Ix4
  gen : Ix4
  deriving DecidableEq, Repr

/-- What a completion carries besides its tag (R84). With OK on a Read of n bytes, the n data bytes are
bytes 0 to n − 1 of `data`; the other bytes, and all of them for a Write, are not on the link (DEDUCED, log entry 7). -/
inductive Completion where
  | ok (data : LineData)
  | error
  deriving DecidableEq, Repr

/-- The commands. A write of n bytes carries them in bytes 0 to n − 1 of its data, in address order (R116). -/
inductive Instr where
  /-- CLAIM_READ (R132): a Claim view read is presented on port p's link. -/
  | claimRead (p : Port) (addr : Addr) (size : Size)
  /-- CLAIM_WRITE (R135): a Claim view write. -/
  | claimWrite (p : Port) (addr : Addr) (size : Size) (data : LineData)
  /-- DIRECT_READ (R138): a Direct view read. -/
  | directRead (p : Port) (addr : Addr) (size : Size)
  /-- DIRECT_WRITE (R140): a Direct view write. -/
  | directWrite (p : Port) (addr : Addr) (size : Size) (data : LineData)
  /-- PLAIN_READ (R142): a Plain view read. -/
  | plainRead (p : Port) (addr : Addr) (size : Size)
  /-- PLAIN_WRITE (R145): a Plain view write. -/
  | plainWrite (p : Port) (addr : Addr) (size : Size) (data : LineData)
  /-- TALLY_READ (R147): a Tally view read. -/
  | tallyRead (p : Port) (addr : Addr) (size : Size)
  /-- TALLY_WRITE (R149): a Tally view write. -/
  | tallyWrite (p : Port) (addr : Addr) (size : Size) (data : LineData)
  /-- VOID_VIEW_REQUEST (R103): a request with view selector 4 to 15. -/
  | voidViewRequest (p : Port) (sel : BitVec 4) (op : Operation) (addr : Addr) (size : Size) (data : LineData)
  /-- SPACE_ARBITER_PASS (R7): one pass of the space arbiter. -/
  | spaceArbiterPass
  /-- GRANT (R94): one grant of the downstream arbiter. -/
  | grant
  /-- FILL_COMPLETION (R57 to R59): the completion of an issued fill arrives. -/
  | fillCompletion (t : Tag) (c : Completion)
  /-- PASS_READ_COMPLETION (R90): the completion of a pass read arrives. -/
  | passReadCompletion (t : Tag) (c : Completion)
  /-- STORE_COMPLETION (R14): the completion of a Store head's line write arrives. -/
  | storeCompletion (t : Tag) (c : Completion)
  /-- COMMIT_COMPLETION (R15): the completion of a Commit head's line write arrives. -/
  | commitCompletion (t : Tag) (c : Completion)
  /-- OUTCOME_COMPLETION (R16): the completion of an Outcome head's line write arrives. -/
  | outcomeCompletion (t : Tag) (c : Completion)
  /-- READ_PHASE_COMPLETION (R74): the completion of a locked update's read phase arrives. -/
  | readPhaseCompletion (t : Tag) (c : Completion)
  /-- WRITE_PHASE_COMPLETION (R75): the completion of a locked update's write phase arrives. -/
  | writePhaseCompletion (t : Tag) (c : Completion)
  /-- LOADER_READ_COMPLETION (R169): the completion of a Setup Loader read arrives. -/
  | loaderReadCompletion (t : Tag) (c : Completion)
  /-- STALE_COMPLETION (R87): a completion arrives whose tag names no live operation. -/
  | staleCompletion (t : Tag) (c : Completion)
  /-- DISCARDED_OPERATION_END (R66): the completion of an operation cut off by a port reset arrives. -/
  | discardedOperationEnd (t : Tag) (c : Completion)
  /-- DOWNSTREAM_TIMEOUT (R88): the timeout timer of the operation with this tag expires. -/
  | downstreamTimeout (t : Tag)
  /-- HOLD_EXPIRY (R34, R26): an expiry of the hold timer of claim `c`, stamped with an arming order. -/
  | holdExpiry (c : Ix4) (stamp : BitVec 8)
  /-- RELOAD_EDGE (R174): a rising edge on RELOAD. -/
  | reloadEdge
  /-- DRAIN_COMPLETION (R176): Device Control tests the drain completion condition. -/
  | drainCompletion
  /-- RESET_ASSERT (R167): assertion of RESET. -/
  | resetAssert
  /-- RESET_RELEASE (R167): release of RESET. -/
  | resetRelease
  /-- PRESET_ASSERT (R127): assertion of PRESETp. -/
  | presetAssert (p : Port)
  /-- PRESET_RELEASE (R130): release of PRESETp. -/
  | presetRelease (p : Port)
  deriving DecidableEq, Repr

end Sys2Proof
end

