-- ==== Sys2Proof/Decode.lean ====
section
/-! DEFINITION. The words of commands. No row of spec/opcode_table.json has bits ("fields" is empty in every
row): commands are events on links and lines, not encoded words. -/

namespace Sys2Proof

/-- The command a word spells by the table's bits: none, for no row of the table gives bits. -/
def decodeTableWord (_nbits _w : Nat) : Option Instr :=
  none

end Sys2Proof
end

