-- ==== Sys2Proof/Config.lean ====
section
/-! DEFINITION. The numbers the manual fixes for every part, and the free values: what the manual leaves to the
world. A free value has no body, so nothing can be proved of it. -/

namespace Sys2Proof.Config

/-- The Write Queue holds at most 16 entries (R3). -/
def queueCapacity : Nat := 16

/-- At most 14 of them are of kinds other than FaultPost (R3). -/
def portCapacity : Nat := 14

/-- The loading default of the tick exponent (R166). -/
def loadingTickExponent : Nat := 10

/-- The loading default of the downstream timeout, in ticks (R166). -/
def loadingTimeout : Nat := 1024

/-- The urge threshold while the configuration is Fallback (R95, R166). -/
def fallbackUrge : Nat := 1

/-- The mark of a setup block (R171). -/
def setupMark : Nat := 0x3A71C5E2

/-- The distance between two setup locations (R168). -/
def setupStride : Nat := 0x400000

/-- FREE VALUE (R168, log entry 3): the levels of SETUP_SEL1 (bit 1) and SETUP_SEL0 (bit 0) at the sampling
that draws free value number n. -/
opaque strapLevels : Nat → BitVec 2

/-- FREE VALUE (R120, log entry 4): where one event makes several ports able to accept a request held on their
links, the ports accept in ascending rank, ports of equal rank in ascending port order. -/
opaque acceptRank : Nat → Port → Nat

/-- FREE VALUE (R116, log entry 15): whether the master of a port keeps the request it presents across the assertion of the
port's PRESET that draws free value number n. -/
opaque masterKeeps : Nat → Port → Bool

/-- FREE VALUE (R26, R87, log entry 5): which of several expiries that are due is taken first. -/
opaque expiryChoice : Nat → Nat

end Sys2Proof.Config
end

