-- ==== Sys2Proof/Machine/State.lean ====
section
/-! DEFINITION. The state of the part: every record, queue, counter, mode and line the manual gives it, as plain
data, and its value while RESET is asserted. -/

namespace Sys2Proof.Machine

/-! ### Requests, verdicts and responses -/

/-- An accepted or presented request (R116, R118). The bytes of a write stand in the low bytes of `data`. -/
structure Request where
  op : Operation
  upAddr : UpAddr
  size : Size
  data : LineData
  deriving DecidableEq, Repr

/-- The views of R103; selectors 4 to 15 are void. -/
inductive View where
  | plain | direct | claim | tally | void
  deriving DecidableEq, Repr

/-- The attributes of a window (R104, R106). -/
structure Attributes where
  buffered : Bool
  stream : Bool
  settled : Bool
  claimOK : Bool
  tallyOK : Bool
  deriving DecidableEq, Repr

/-- A window of the Window Table: first and last granule, attributes and the two port masks (R104). -/
structure Window where
  base : Granule
  limit : Granule
  attrs : Attributes
  readPorts : PerPort Bool
  writePorts : PerPort Bool
  deriving DecidableEq, Repr

/-- The Window Unit's verdict on a request that passed: the window's number and its attributes (R110). -/
structure Verdict where
  window : Nat
  attrs : Attributes
  deriving DecidableEq, Repr

/-- The reasons of a refusal, in the order of the checks (R108). -/
inductive RefuseReason where
  | voidView | misaligned | badSize | unmapped | viewDenied | readDenied | writeDenied
  deriving DecidableEq, Repr

/-- The result of the access checks (R108). -/
inductive CheckResult where
  | refuse (r : RefuseReason)
  | pass (v : Verdict)
  deriving DecidableEq, Repr

/-- The reasons that go with Failed (R117). -/
inductive FailReason where
  | downstreamError | downstreamTimeout
  deriving DecidableEq, Repr

/-- A response on a port link (R117): Done with its data bytes in address order, Refused or Failed. -/
inductive Response where
  | done (data : List Byte)
  | refused (r : RefuseReason)
  | failed (r : FailReason)
  deriving DecidableEq, Repr

/-! ### Ports -/

/-- What a port in ReadWait waits on (R118): the fill in one entry of its line set, or its pass read, waiting
or issued. -/
inductive ReadTarget where
  | fill (e : Ix4)
  | pass (issued : Bool)
  deriving DecidableEq, Repr

/-- The state of a port with what it holds in that state (R119). A SettleWait or CountWait names its queue
entry by the entry's serial. -/
inductive PortState where
  | idle
  | readWait (r : Request) (v : Verdict) (t : ReadTarget)
  | spaceWait (r : Request) (v : Verdict)
  | settleWait (r : Request) (v : Verdict) (serial : Nat)
  | countWait (r : Request) (v : Verdict) (serial : Nat)
  | reset
  deriving DecidableEq, Repr

/-! ### Line sets -/

/-- The class of a fill (R50). -/
inductive FillClass where
  | demand | prefetch
  deriving DecidableEq, Repr

/-- The fill fields of a Filling entry (R50); stage issued is `issued = true`. -/
structure Fill where
  cls : FillClass
  issued : Bool
  overtaken : Bool
  refill : Bool
  deriving DecidableEq, Repr

/-- A line entry (R50). -/
inductive LineEntry where
  | empty
  | filling (line : Addr) (f : Fill)
  | valid (line : Addr) (data : LineData)
  | prefetched (line : Addr) (data : LineData)
  deriving DecidableEq, Repr

/-- A line set: four entries and the recency order, most recent first (R50, R52). -/
structure LineSet where
  entries : Quad LineEntry
  order : List Ix4
  deriving DecidableEq, Repr

/-- A line set with every entry Empty. -/
def LineSet.allEmpty : LineSet := ⟨Quad.const .empty, []⟩

/-! ### Claims -/

/-- A claim in the Claim Table (R25). `timer` is the number of tick boundaries still to come, none while no
timer runs (R33). -/
structure Claim where
  owner : Port
  line : Addr
  timer : Option Nat
  order : BitVec 8
  deriving DecidableEq, Repr

/-- The reasons of a Lapsed status (R27). -/
inductive LapseReason where
  | broken | expired | crowded | dropped
  deriving DecidableEq, Repr

/-- The claim status of a port (R27). -/
inductive ClaimStatus where
  | none
  | held (c : Ix4)
  | lapsed (reason : LapseReason) (line : Addr)
  deriving DecidableEq, Repr

/-- The outcome codes (R48, R180). -/
inductive OutcomeCode where
  | none | committed | broken | expired | notHeld | crowded | dropped | failed
  deriving DecidableEq, Repr

/-! ### The Write Queue and the Record Unit -/

/-- The content of an Outcome entry (R1, R153). -/
structure OutcomeContent where
  sequence : BitVec 16
  code : OutcomeCode
  size : Size
  addr : Addr
  deriving DecidableEq, Repr

/-- The fault kinds (R154). -/
inductive FaultKind where
  | storeError | storeTimeout | commitError | commitTimeout | addError | addTimeout | wrap
  deriving DecidableEq, Repr

/-- Faults held for a port and not yet written (R154), and the fault content of a FaultPost entry (R1). The set
of kinds has kind k at bit k − 1; the count is 1 to 255. -/
structure FaultContent where
  flags : BitVec 8
  count : Nat
  firstKind : FaultKind
  firstAddr : Addr
  deriving DecidableEq, Repr

/-- The kind of a queue entry with the fields present for that kind (R1). -/
inductive EntryBody where
  | store (mask : Mask) (data : LineData) (settled : Bool)
  | commit (mask : Mask) (data : LineData) (settled : Bool)
  | outcome (content : OutcomeContent)
  | add (operand : Word) (settled : Bool)
  | count
  | faultPost (content : FaultContent)
  deriving DecidableEq, Repr

/-- A Write Queue entry (R1). `serial` is its name (R19: "one named entry"). -/
structure Entry where
  serial : Nat
  port : Port
  target : Addr
  body : EntryBody
  issued : Bool
  deriving DecidableEq, Repr

/-! ### The Update Engine -/

/-- What the engine holds in phase Write (R69). -/
inductive UpdateValue where
  | word (old new : Word) (wrap : Bool)
  | record (content : BitVec 64)
  deriving DecidableEq, Repr

/-- The Update Engine (R69): Idle, or Busy with an entry in phase Read or Write. -/
inductive Engine where
  | idle
  | reading (serial : Nat)
  | writing (serial : Nat) (value : UpdateValue)
  deriving DecidableEq, Repr

/-! ### The Downstream Port -/

/-- The owner of an operation in a slot (R89). -/
inductive Owner where
  | fill (p : Port) (e : Ix4)
  | pass (p : Port)
  | lineWrite
  | readPhase
  | writePhase
  | loader
  | discarded
  deriving DecidableEq, Repr

/-- A request on the memory link (R83); its tag is the slot and the generation of its occupant. -/
inductive MemRequest where
  | read (size : Size) (addr : Addr)
  | write (line : Addr) (mask : Mask) (data : LineData)
  deriving DecidableEq, Repr

/-- The operation in flight in a slot (R85). `timer` is the number of tick boundaries still to come (R88). -/
structure Occupant where
  owner : Owner
  req : MemRequest
  gen : Ix4
  timer : Nat
  deriving DecidableEq, Repr

/-- An operation slot (R85); `stale` says of each generation whether it is stale. -/
structure Slot where
  occupant : Option Occupant
  nextGen : Ix4
  stale : Quad Bool
  deriving DecidableEq, Repr

/-- A slot with no occupant, next generation 0 and no stale generations (R85). -/
def Slot.initial : Slot := ⟨none, .i0, Quad.const false⟩

/-! ### Device Control and the Setup Loader -/

/-- The device mode (R164). -/
inductive Mode where
  | loading | serving | draining
  deriving DecidableEq, Repr

/-- What a setup block installs (R166, R113): windows W0 to W(n − 1) and the five parameters. -/
structure Setup where
  windows : List Window
  tickExponent : Nat
  timeout : Nat
  claimHold : Nat
  urge : Nat
  recordBase : Addr
  deriving DecidableEq, Repr

/-- The configuration (R164) with what it has in force. Fallback has the fallback table of R112 and the values
of R166 for a failed load; Loaded has the installed setup. -/
inductive Configuration where
  | fallback
  | loaded (setup : Setup)
  deriving DecidableEq, Repr

/-- Where the Setup Loader stands in a load (R169): not reading, reading the header, or reading further line k
of m. -/
inductive LoaderPhase where
  | ended
  | header
  | line (k m : Nat)
  deriving DecidableEq, Repr

/-- The Setup Loader (R168, R169): its phase, whether its read is offered and not yet issued, the setup
location and the block buffer. -/
structure Loader where
  phase : LoaderPhase
  offered : Bool
  location : Addr
  block : List LineData
  deriving DecidableEq, Repr

/-! ### Outputs -/

/-- What an event puts on the part's links and pulse line. -/
inductive Output where
  /-- a response on a port link (R117) -/
  | response (p : Port) (r : Response)
  /-- a request on the memory link (R83) -/
  | request (t : Tag) (r : MemRequest)
  /-- one pulse on FAULT (R159) -/
  | faultPulse
  deriving DecidableEq, Repr

/-! ### The state -/

structure State where
  /-- port states (R118, R119) -/
  ports : PerPort PortState
  /-- requests presented on the links and not yet accepted (R116, R120) -/
  links : PerPort (Option Request)
  /-- line sets LS0 to LS5 (R50) -/
  lineSets : PerPort LineSet
  /-- the Write Queue, oldest entry first (R1, R12) -/
  queue : List Entry
  /-- the name of the next admitted entry (the model's own: DESIGN CHOICE, log entry 8) -/
  nextSerial : Nat
  /-- the waiting list, first member first (R4) -/
  waiting : List Port
  /-- the Claim Table (R25) -/
  claimTable : Quad (Option Claim)
  /-- claim statuses (R27) -/
  claimStatus : PerPort ClaimStatus
  /-- the arming count (R26) -/
  armingCount : BitVec 8
  /-- claim-write counters (R28) -/
  writeCounter : PerPort (BitVec 16)
  /-- the Update Engine (R69) -/
  engine : Engine
  /-- slots S0 to S3 (R85) -/
  slots : Quad Slot
  /-- the demand pointer (R96) -/
  demandPtr : Port
  /-- the prefetch pointer (R96) -/
  prefetchPtr : Port
  /-- fault staging per port, none while empty (R154) -/
  staging : PerPort (Option FaultContent)
  /-- whether the Notify read by the FaultPost in flight was nonzero (R157) -/
  notifyMark : Option Bool
  /-- the record-lost condition, shown by ALERT (R160) -/
  recordLost : Bool
  /-- the device mode (R164) -/
  mode : Mode
  /-- the configuration and what it has in force (R164) -/
  config : Configuration
  /-- the pending-reload latch (R164) -/
  reloadLatch : Bool
  /-- the Setup Loader (R169) -/
  loader : Loader
  /-- RESET is asserted -/
  resetLine : Bool
  /-- PRESETp is asserted -/
  presetLines : PerPort Bool
  /-- SETUP_SEL1 (bit 1) and SETUP_SEL0 (bit 0) as last sampled (R168) -/
  straps : BitVec 2
  /-- the outputs of the latest event (DESIGN CHOICE, log entry 9) -/
  outs : List Output
  /-- how many free values have been drawn (DESIGN CHOICE, log entries 3 to 5) -/
  freeCount : Nat
  /-- the commands that wait, first in, first out (DESIGN CHOICE, log entry 1) -/
  pending : List Instr
  deriving DecidableEq, Repr

/-- The reasons a command could stop the machine with a fault. There is none: every command of the part has a
next state in every state (DEDUCED, log entry 10). -/
inductive Fault where
  deriving DecidableEq, Repr

/-- The reasons a command could be refused. -/
inductive Refusal where
  /-- Raised by a refused arm of exec alone, for a command that has no meaning yet; no arm raises it. Safe: a
  refusal proves nothing. -/
  | notModelled (mnemonic : String)
  deriving DecidableEq, Repr

/-- The Setup Loader while it does not read (R164). -/
def Loader.notReading : Loader := ⟨.ended, false, 0, []⟩

/-- The machine while RESET is asserted: every block at its reset value (R167, and R21, R47, R50, R69, R82, R101,
R104, R118, R154, R163, R164). The levels of the input lines and the model's own fields have the values of log
entry 2 (DESIGN CHOICE, unsafe). -/
def State.reset : State where
  ports := PerPort.const .idle
  links := PerPort.const none
  lineSets := PerPort.const LineSet.allEmpty
  queue := []
  nextSerial := 0
  waiting := []
  claimTable := Quad.const none
  claimStatus := PerPort.const .none
  armingCount := 0
  writeCounter := PerPort.const 0
  engine := .idle
  slots := Quad.const Slot.initial
  demandPtr := .u5
  prefetchPtr := .u5
  staging := PerPort.const none
  notifyMark := none
  recordLost := false
  mode := .loading
  config := .fallback
  reloadLatch := false
  loader := Loader.notReading
  resetLine := true
  presetLines := PerPort.const false
  straps := 0
  outs := []
  freeCount := 0
  pending := []

/-! ### Named updates -/

def State.setPort (s : State) (p : Port) (x : PortState) : State :=
  { s with ports := s.ports.set p x }

def State.setLink (s : State) (p : Port) (x : Option Request) : State :=
  { s with links := s.links.set p x }

def State.setLineSet (s : State) (p : Port) (x : LineSet) : State :=
  { s with lineSets := s.lineSets.set p x }

def State.setStatus (s : State) (p : Port) (x : ClaimStatus) : State :=
  { s with claimStatus := s.claimStatus.set p x }

def State.setClaim (s : State) (c : Ix4) (x : Option Claim) : State :=
  { s with claimTable := s.claimTable.set c x }

def State.setCounter (s : State) (p : Port) (x : BitVec 16) : State :=
  { s with writeCounter := s.writeCounter.set p x }

def State.setStaging (s : State) (p : Port) (x : Option FaultContent) : State :=
  { s with staging := s.staging.set p x }

def State.setSlot (s : State) (i : Ix4) (x : Slot) : State :=
  { s with slots := s.slots.set i x }

/-- One more output of the event in hand. -/
def State.emit (s : State) (o : Output) : State :=
  { s with outs := s.outs ++ [o] }

end Sys2Proof.Machine
end

