-- ==== Sys2Proof/Machine/Operands.lean ====
section
/-! DEFINITION. The operands of accesses: the parts of an upstream address, lines and offsets, bytes of a line and
byte masks, and the request each command presents. -/

namespace Sys2Proof.Machine

/-! ### Addresses -/

/-- The line that contains an address: its low five bits zero (00, Conventions). -/
def lineOf (a : Addr) : Addr := a &&& 0xFFFFFE0#28

/-- The offset of an address within its line. -/
def offsetOf (a : Addr) : Nat := a.toNat % 32

/-- The view selector, bits 31 to 28 of an upstream address (R102). -/
def selectorOf (u : UpAddr) : BitVec 4 := u.extractLsb' 28 4

/-- The memory address, bits 27 to 0 of an upstream address (R102). -/
def memAddrOf (u : UpAddr) : Addr := u.extractLsb' 0 28

/-- The upstream address with a selector and a memory address (R102). -/
def upAddrOf (sel : BitVec 4) (a : Addr) : UpAddr := sel ++ a

/-- The view a selector gives (R103). -/
def viewOf (sel : BitVec 4) : View :=
  if sel = 0 then .plain
  else if sel = 1 then .direct
  else if sel = 2 then .claim
  else if sel = 3 then .tally
  else .void

/-- The memory address of a request. -/
def Request.addr (r : Request) : Addr := memAddrOf r.upAddr

/-- The view of a request. -/
def Request.view (r : Request) : View := viewOf (selectorOf r.upAddr)

/-- The line of an access is the line of its memory address (R115). -/
def Request.line (r : Request) : Addr := lineOf r.addr

/-! ### Bytes of a line -/

/-- Byte i of a line. -/
def byteAt (d : LineData) (i : Nat) : Byte := d.extractLsb' (8 * i) 8

/-- Bytes off to off + n − 1 of a line, in address order. -/
def bytesFrom (d : LineData) (off n : Nat) : List Byte :=
  (List.range n).map fun i => byteAt d (off + i)

/-- The little-endian word at an offset of a line. -/
def wordAt (d : LineData) (off : Nat) : Word := d.extractLsb' (8 * off) 32

/-- The four bytes of a word in address order. -/
def wordBytes (w : Word) : List Byte :=
  [w.extractLsb' 0 8, w.extractLsb' 8 8, w.extractLsb' 16 8, w.extractLsb' 24 8]

/-- The positions off to off + n − 1. -/
def spanMask (off n : Nat) : Mask := BitVec.ofNat 32 (2 ^ n - 1) <<< off

/-- The low n bytes of `d` moved to the positions off to off + n − 1; every other byte zero. -/
def placeBytes (d : LineData) (off n : Nat) : LineData :=
  (d &&& BitVec.ofNat 256 (2 ^ (8 * n) - 1)) <<< (8 * off)

/-- All eight bits of each byte whose position is in the mask. -/
def expandMask (m : Mask) : LineData :=
  (List.range 32).foldl
    (fun acc i => if m.getLsbD i then acc ||| (0xFF#256 <<< (8 * i)) else acc) 0

/-- `old` with the bytes at the mask's positions replaced by those of `new` (R6). -/
def mergeBytes (m : Mask) (new old : LineData) : LineData :=
  (old &&& ~~~expandMask m) ||| (new &&& expandMask m)

/-- The mask of a write: the positions of its bytes within its line (R2). -/
def Request.mask (r : Request) : Mask := spanMask (offsetOf r.addr) r.size.bytes

/-- The bytes of a write at their positions within its line (R2). -/
def Request.lineData (r : Request) : LineData :=
  placeBytes r.data (offsetOf r.addr) r.size.bytes

/-- The operand of a Tally write: its four bytes as a little-endian word (R2, R149). -/
def Request.operand (r : Request) : Word := r.data.extractLsb' 0 32

/-! ### What a request asks for -/

/-- The requests that write memory: Plain, Direct and Claim writes, Tally writes and Tally reads (R5). -/
def Request.usesQueue (r : Request) : Bool :=
  match r.view, r.op with
  | .plain, .write => true
  | .direct, .write => true
  | .claim, .write => true
  | .tally, _ => true
  | _, _ => false

/-- The room a request needs: 2 for a claim write, 1 for any other (R3). -/
def Request.need (r : Request) : Nat :=
  match r.view with
  | .claim => 2
  | _ => 1

/-- Whether a Store made by the request is settled: a Direct write always, a Plain write by the Settled
attribute of its window (R2). -/
def Request.settledStore (r : Request) (v : Verdict) : Bool :=
  match r.view with
  | .direct => true
  | _ => v.attrs.settled

/-- A read through a view. -/
def readRequest (sel : BitVec 4) (addr : Addr) (size : Size) : Request :=
  ⟨.read, upAddrOf sel addr, size, 0⟩

/-- A write through a view. -/
def writeRequest (sel : BitVec 4) (addr : Addr) (size : Size) (data : LineData) : Request :=
  ⟨.write, upAddrOf sel addr, size, data⟩

/-- The selectors of the four views (R103). -/
def selPlain : BitVec 4 := 0
def selDirect : BitVec 4 := 1
def selClaim : BitVec 4 := 2
def selTally : BitVec 4 := 3

/-! ### Completions -/

/-- How an operation ends (R89). -/
inductive EndResult where
  | ok (data : LineData)
  | error
  | timeout
  deriving DecidableEq, Repr

/-- The end a completion brings (R84, R89). -/
def endOf : Completion → EndResult
  | .ok d => .ok d
  | .error => .error

/-- The line of a request on the memory link. -/
def memRequestLine : MemRequest → Addr
  | .read _ a => lineOf a
  | .write l _ _ => lineOf l

end Sys2Proof.Machine
end

