-- ==== Sys2Proof/Machine/Flags.lean ====
section
/-! DEFINITION. The values the part computes: fault flags and their coalescing, the sums of locked updates and
their wraps, the contents of records, link codes and output levels. -/

namespace Sys2Proof.Machine

/-! ### Fault kinds and staging -/

/-- The value of a fault kind in a record (R154, R180). -/
def FaultKind.value : FaultKind → Nat
  | .storeError => 1
  | .storeTimeout => 2
  | .commitError => 3
  | .commitTimeout => 4
  | .addError => 5
  | .addTimeout => 6
  | .wrap => 7

/-- The flag of kind k: bit k − 1 (R179, R180). -/
def FaultKind.flag (k : FaultKind) : BitVec 8 := 1#8 <<< (k.value - 1)

/-- A count that rises by n and stays at 255 (R155, R157). -/
def addCount (a n : Nat) : Nat := min 255 (a + n)

/-- Staging after a fault report (R155). -/
def absorbFault (staged : Option FaultContent) (k : FaultKind) (a : Addr) : FaultContent :=
  match staged with
  | none => ⟨k.flag, 1, k, a⟩
  | some f => { f with flags := f.flags ||| k.flag, count := addCount f.count 1 }

/-! ### Locked updates -/

/-- The new value of an Add and whether it wraps (R71): the sum of the unsigned old value and the signed
operand, as a whole number, brought into 0 to 2^32 − 1. -/
def addWord (old operand : Word) : Word × Bool :=
  let sum : Int := (old.toNat : Int) + operand.toInt
  (BitVec.ofInt 32 sum, decide (sum < 0 ∨ (2 ^ 32 : Int) ≤ sum))

/-- The new value of a Count and whether it wraps (R72). -/
def countWord (old : Word) : Word × Bool :=
  (old + 1, decide (old = 0xFFFFFFFF#32))

/-- A word at the positions of its four bytes within its line (R74). -/
def wordLineData (w : Word) (off : Nat) : LineData := w.zeroExtend 256 <<< (8 * off)

/-! ### Records -/

/-- The value of an outcome code (R48, R180). -/
def OutcomeCode.value : OutcomeCode → Nat
  | .none => 0
  | .committed => 1
  | .broken => 2
  | .expired => 3
  | .notHeld => 4
  | .crowded => 5
  | .dropped => 6
  | .failed => 7

/-- Bytes 0 to 7 of a record as an Outcome writes them (R179): sequence, code, size, address. -/
def outcomeData (o : OutcomeContent) : LineData :=
  (o.sequence.zeroExtend 256)
    ||| (BitVec.ofNat 256 o.code.value <<< 16)
    ||| (BitVec.ofNat 256 o.size.bytes <<< 24)
    ||| (o.addr.zeroExtend 256 <<< 32)

/-- The positions an Outcome writes: 0 to 7 (R1, R153). -/
def outcomeMask : Mask := spanMask 0 8

/-- The positions a FaultPost writes: 8 to 15 (R74). -/
def faultMask : Mask := spanMask 8 8

/-- The Notify byte, byte 11 of a record (R179). -/
def notifyByte (line : LineData) : Byte := byteAt line 11

/-- Bytes 8 to 15 of a record as a FaultPost writes them, byte 8 lowest (R157, R179): the union of the flags with
bit 7 as read, the saturated count, the first fault read unless its kind reads 0, and Notify 0. -/
def faultMerge (line : LineData) (f : FaultContent) : BitVec 64 :=
  let flags : Byte := byteAt line 8 ||| f.flags
  let count : Byte := BitVec.ofNat 8 (addCount (byteAt line 9).toNat f.count)
  let keep : Bool := decide (byteAt line 10 ≠ 0)
  let kind : Byte := if keep then byteAt line 10 else BitVec.ofNat 8 f.firstKind.value
  let addr : Word := if keep then wordAt line 12 else f.firstAddr.zeroExtend 32
  addr ++ (0#8 ++ (kind ++ (count ++ flags)))

/-- The write content of a FaultPost at positions 8 to 15 of its line (R74). -/
def faultLineData (content : BitVec 64) : LineData := content.zeroExtend 256 <<< 64

/-! ### Link codes -/

/-- The status code of a response (R180). -/
def Response.statusCode : Response → Nat
  | .done _ => 0
  | .refused _ => 1
  | .failed _ => 2

/-- The reason code of a response (R180). -/
def Response.reasonCode : Response → Nat
  | .done _ => 0
  | .refused .voidView => 1
  | .refused .misaligned => 2
  | .refused .badSize => 3
  | .refused .unmapped => 4
  | .refused .viewDenied => 5
  | .refused .readDenied => 6
  | .refused .writeDenied => 7
  | .failed .downstreamError => 8
  | .failed .downstreamTimeout => 9

/-! ### Output levels -/

/-- SETUP_OK: high while the configuration is Loaded and the mode is not Loading (R165). -/
def setupOK (s : State) : Bool :=
  match s.config with
  | .fallback => false
  | .loaded _ => decide (s.mode ≠ .loading)

/-- ALERT shows the record-lost condition (R160). -/
def alertLevel (s : State) : Bool := s.recordLost

/-! ### What the configuration has in force -/

/-- The fallback table (R112). -/
def fallbackTable : List Window :=
  [⟨0, 0xFFFF, ⟨false, false, true, false, false⟩, PerPort.const true, PerPort.const true⟩]

/-- The Window Table: window Wi is member i of the list, and every later place is absent (R104). -/
def windowTable : Configuration → List Window
  | .fallback => fallbackTable
  | .loaded b => b.windows

/-- The claim hold in force, none under Fallback (R166). -/
def claimHoldOf : Configuration → Option Nat
  | .fallback => none
  | .loaded b => some b.claimHold

/-- The urge threshold in force (R95, R166). -/
def urgeOf : Configuration → Nat
  | .fallback => Config.fallbackUrge
  | .loaded b => b.urge

/-- The record base in force, none under Fallback (R151). -/
def recordBaseOf : Configuration → Option Addr
  | .fallback => none
  | .loaded b => some b.recordBase

/-- The line of record p: the record base plus 32 × p (R151). -/
def recordLine (s : State) (p : Port) : Option Addr :=
  (recordBaseOf s.config).map fun b => b + BitVec.ofNat 28 (32 * p.index)

/-- The tick exponent in force: 10 while Loading, the installed one otherwise (R166). -/
def tickExponentOf (s : State) : Nat :=
  match s.mode, s.config with
  | .loading, _ => Config.loadingTickExponent
  | _, .fallback => Config.loadingTickExponent
  | _, .loaded b => b.tickExponent

/-- The length of one tick in nanoseconds: 125 × 2^e (R166). -/
def tickNanoseconds (s : State) : Nat := 125 * 2 ^ tickExponentOf s

/-- The downstream timeout in force: 1024 ticks while Loading, the installed one otherwise (R88, R166). -/
def timeoutOf (s : State) : Nat :=
  match s.mode, s.config with
  | .loading, _ => Config.loadingTimeout
  | _, .fallback => Config.loadingTimeout
  | _, .loaded b => b.timeout

end Sys2Proof.Machine
end

