-- ==== Sys2Proof/Machine/Claims.lean ====
section
/-! DEFINITION. The Claim Unit: arming, lapsing, the decision on a claim write and its consumption. -/

namespace Sys2Proof.Machine

/-- The lowest-numbered free entry of the Claim Table (R30). -/
def lowestFreeClaim (t : Quad (Option Claim)) : Option Ix4 :=
  Ix4.all.find? fun c => (t.get c).isNone

/-- The claim an arming writes: owner, line, the hold timer started with the hold in force, the new arming order
(R25, R26, R33). -/
def armedClaim (s : State) (p : Port) (line : Addr) : Claim :=
  ⟨p, line, claimHoldOf s.config, s.armingCount + 1⟩

/-- Arming at the acceptance of a claim read of a line by port p (R29): a re-arm or a move of the entry p holds, a
new claim in the lowest free entry, or the Crowded decision. -/
def armClaim (p : Port) (line : Addr) (s : State) : State :=
  match s.claimStatus.get p with
  | .held c =>
    { s.setClaim c (some (armedClaim s p line)) with armingCount := s.armingCount + 1 }
  | _ =>
    match lowestFreeClaim s.claimTable with
    | some c =>
      { (s.setClaim c (some (armedClaim s p line))).setStatus p (.held c) with
        armingCount := s.armingCount + 1 }
    | none => s.setStatus p (.lapsed .crowded line)

/-- The claim in an entry ends for a reason: its owner becomes Lapsed with that reason and the claim's line, and
the entry is freed (R34, R36, R44). -/
def lapseClaim (reason : LapseReason) (c : Ix4) (s : State) : State :=
  match s.claimTable.get c with
  | some cl => (s.setClaim c none).setStatus cl.owner (.lapsed reason cl.line)
  | none => s

/-- The break of the claim in one entry by an admission to a line (R36). -/
def breakClaim (line : Addr) (c : Ix4) (s : State) : State :=
  match s.claimTable.get c with
  | some cl => if cl.line = line then lapseClaim .broken c s else s
  | none => s

/-- Every claim on a line is broken (R36). -/
def breakClaims (line : Addr) (s : State) : State :=
  breakClaim line .i3 (breakClaim line .i2 (breakClaim line .i1 (breakClaim line .i0 s)))

/-- Every claim is dropped at drain start (R44). -/
def dropClaims (s : State) : State :=
  lapseClaim .dropped .i3 (lapseClaim .dropped .i2 (lapseClaim .dropped .i1 (lapseClaim .dropped .i0 s)))

/-- The outcome code that reports a lapse (R39). -/
def LapseReason.code : LapseReason → OutcomeCode
  | .broken => .broken
  | .expired => .expired
  | .crowded => .crowded
  | .dropped => .dropped

/-- The outcome of a claim write by port p to a line, from p's claim status (R39). -/
def decideCode (s : State) (p : Port) (line : Addr) : OutcomeCode :=
  match s.claimStatus.get p with
  | .none => .notHeld
  | .held c =>
    match s.claimTable.get c with
    | some cl => if cl.line = line then .committed else .notHeld
    | none => .notHeld
  | .lapsed reason l => if l = line then reason.code else .notHeld

/-- Port p's claim state is given up: the entry it holds is freed and its status becomes None (R40, R46). -/
def giveUpClaim (p : Port) (s : State) : State :=
  match s.claimStatus.get p with
  | .held c => (s.setClaim c none).setStatus p .none
  | _ => s.setStatus p .none

/-- The consumption after any decision (R40): the claim state is given up and the counter advances by one. -/
def consumeClaim (p : Port) (s : State) : State :=
  (giveUpClaim p s).setCounter p (s.writeCounter.get p + 1)

/-- Port p's claim state at the assertion of PRESETp (R46). -/
def clearClaim (p : Port) (s : State) : State :=
  (giveUpClaim p s).setCounter p 0

/-- An expiry of the hold timer of entry c, stamped with an arming order: it is taken when the entry is in use
with that arming order, and discarded otherwise (R26, R34). -/
def takeHoldExpiry (c : Ix4) (stamp : BitVec 8) (s : State) : State :=
  match s.claimTable.get c with
  | some cl => if cl.order = stamp then lapseClaim .expired c s else s
  | none => s

end Sys2Proof.Machine
end

