-- ==== Sys2Proof/Machine/LineSets.lean ====
section
/-! DEFINITION. What happens inside one line set: lookup, victims, recency, invalidation at an admission. -/

namespace Sys2Proof.Machine

/-- The line of a non-Empty entry (R50). -/
def LineEntry.line? : LineEntry → Option Addr
  | .empty => none
  | .filling l _ => some l
  | .valid l _ => some l
  | .prefetched l _ => some l

/-- The line of an entry whose data is present: Valid or Prefetched (R50). -/
def LineEntry.dataLine? : LineEntry → Option Addr
  | .valid l _ => some l
  | .prefetched l _ => some l
  | _ => none

/-- The entry that holds a line, if any (R53). -/
def LineSet.lookup (ls : LineSet) (line : Addr) : Option Ix4 :=
  Ix4.all.find? fun e => decide ((ls.entries.get e).line? = some line)

/-- The recency order with one entry made most recent (R52). -/
def makeRecent (e : Ix4) (order : List Ix4) : List Ix4 :=
  e :: order.filter fun x => decide (x ≠ e)

/-- The victim of a miss or prefetch: the lowest-numbered Empty entry, otherwise the least recent entry (R55). A
set with neither is one that no run reaches (DESIGN CHOICE, log entry 11). -/
def LineSet.victim (ls : LineSet) : Ix4 :=
  match Ix4.all.find? fun e => decide (ls.entries.get e = .empty) with
  | some e => e
  | none => ls.order.getLast?.getD .i0

/-- One entry replaced, the recency order kept. -/
def LineSet.setEntry (ls : LineSet) (e : Ix4) (x : LineEntry) : LineSet :=
  { ls with entries := ls.entries.set e x }

/-- The victim becomes Filling on a line, waiting, with a class, and leaves the recency order (R55, R63). -/
def LineSet.startFill (ls : LineSet) (line : Addr) (cls : FillClass) : LineSet :=
  ⟨ls.entries.set ls.victim (.filling line ⟨cls, false, false, false⟩),
   ls.order.filter fun x => decide (x ≠ ls.victim)⟩

/-- An entry takes data and becomes most recent (R53, R57). -/
def LineSet.install (ls : LineSet) (e : Ix4) (x : LineEntry) : LineSet :=
  ⟨ls.entries.set e x, makeRecent e ls.order⟩

/-- An entry at an admission to a line (R60). -/
def LineEntry.afterAdmission (line : Addr) : LineEntry → LineEntry
  | .empty => .empty
  | .valid l d => if l = line then .empty else .valid l d
  | .prefetched l d => if l = line then .empty else .prefetched l d
  | .filling l f =>
    if l = line then
      if f.issued then .filling l { f with overtaken := true }
      else
        match f.cls with
        | .prefetch => .empty
        | .demand => .filling l f
    else .filling l f

/-- A line set at an admission to a line (R60): emptied entries leave the recency order. -/
def LineSet.afterAdmission (line : Addr) (ls : LineSet) : LineSet :=
  ⟨ls.entries.map (LineEntry.afterAdmission line),
   ls.order.filter fun e => decide ((ls.entries.get e).dataLine? ≠ some line)⟩

/-- An entry at drain start: a waiting prefetch is withdrawn (R67). -/
def LineEntry.afterDrainStart : LineEntry → LineEntry
  | .filling l f => if f.cls = .prefetch ∧ f.issued = false then .empty else .filling l f
  | x => x

/-- A line set at drain start (R67). -/
def LineSet.afterDrainStart (ls : LineSet) : LineSet :=
  { ls with entries := ls.entries.map LineEntry.afterDrainStart }

/-- A fill of class prefetch, waiting or issued (R56). -/
def LineEntry.isPrefetchFill : LineEntry → Bool
  | .filling _ f => decide (f.cls = .prefetch)
  | _ => false

/-- The port has a prefetch (R56, R62). -/
def LineSet.hasPrefetch (ls : LineSet) : Bool :=
  Ix4.all.any fun e => (ls.entries.get e).isPrefetchFill

/-- The line of a waiting prefetch (R64, R93). -/
def LineEntry.waitingPrefetch? : LineEntry → Option Addr
  | .filling l f => if f.cls = .prefetch ∧ f.issued = false then some l else none
  | _ => none

/-- The entry of the set's waiting prefetch, if any (R93). -/
def LineSet.waitingPrefetch (ls : LineSet) : Option Ix4 :=
  Ix4.all.find? fun e => (ls.entries.get e).waitingPrefetch?.isSome

/-- A Filling entry whose fill is granted a slot (R56). -/
def LineEntry.issueFill : LineEntry → LineEntry
  | .filling l f => .filling l { f with issued := true }
  | x => x

end Sys2Proof.Machine
end

