-- ==== Sys2Proof/Machine/Windows.lean ====
section
/-! DEFINITION. The Window Unit: which window holds an address, and the access checks. -/

namespace Sys2Proof.Machine

/-- A window contains an address that lies from base × 4096 to limit × 4096 + 4095 (R105). -/
def Window.holds (w : Window) (a : Addr) : Bool :=
  decide (w.base.toNat * 4096 ≤ a.toNat ∧ a.toNat ≤ w.limit.toNat * 4096 + 4095)

/-- The lowest-numbered window that contains an address, with its number counted from i (R105). -/
def findWindow : List Window → Nat → Addr → Option (Nat × Window)
  | [], _, _ => none
  | w :: ws, i, a => if w.holds a then some (i, w) else findWindow ws (i + 1) a

/-- The window of an address (R105). -/
def windowOf (table : List Window) (a : Addr) : Option (Nat × Window) :=
  findWindow table 0 a

/-- The access needs the read right: every read (R107). -/
def Request.needsRead (r : Request) : Bool := decide (r.op = .read)

/-- The access needs the write right: every write, and a Tally read (R107). -/
def Request.needsWrite (r : Request) : Bool :=
  decide (r.op = .write) || decide (r.view = .tally)

/-- The view check: the Claim view needs ClaimOK, the Tally view TallyOK (R108, check 5). -/
def viewDenied (v : View) (attrs : Attributes) : Bool :=
  match v with
  | .claim => !attrs.claimOK
  | .tally => !attrs.tallyOK
  | _ => false

/-- The access checks, the first that fails giving the reason (R108). -/
def accessCheck (table : List Window) (p : Port) (r : Request) : CheckResult :=
  if r.view = .void then .refuse .voidView
  else if r.addr.toNat % r.size.bytes ≠ 0 then .refuse .misaligned
  else if r.view = .tally ∧ r.size ≠ .b4 then .refuse .badSize
  else
    match windowOf table r.addr with
    | none => .refuse .unmapped
    | some (i, w) =>
      if viewDenied r.view w.attrs then .refuse .viewDenied
      else if r.needsRead && !w.readPorts.get p then .refuse .readDenied
      else if r.needsWrite && !w.writePorts.get p then .refuse .writeDenied
      else .pass ⟨i, w.attrs⟩

end Sys2Proof.Machine
end

