-- ==== Sys2Proof/Machine/Ops.lean ====
section
/-! DEFINITION. The shared operations: responses, admission to the Write Queue, the waiting list and the space
arbiter, fault reports, reads and prefetches, acceptance, and what follows every event. -/

namespace Sys2Proof.Machine

/-! ### Events and responses -/

/-- The start of an event: nothing stands on the links yet (DESIGN CHOICE, log entry 9). -/
def beginEvent (s : State) : State := { s with outs := [] }

/-- Port p gives a response and becomes Idle; its request, verdict and wait target end (R117, R118). -/
def answer (p : Port) (r : Response) (s : State) : State :=
  (s.setPort p .idle).emit (.response p r)

/-- The response due for a completing entry is delivered to port p if p is in SettleWait or CountWait on that
entry, and discarded otherwise (R19). -/
def deliver (p : Port) (serial : Nat) (r : Response) (s : State) : State :=
  match s.ports.get p with
  | .settleWait _ _ n => if n = serial then answer p r s else s
  | .countWait _ _ n => if n = serial then answer p r s else s
  | _ => s

/-! ### The Write Queue: lines, room and admission -/

/-- The line of an entry: the line that contains its target (R1). -/
def Entry.line (e : Entry) : Addr := lineOf e.target

/-- The entry is a FaultPost (R3). -/
def Entry.isFaultPost (e : Entry) : Bool :=
  match e.body with
  | .faultPost _ => true
  | _ => false

/-- The queue's occupancy (R3). -/
def occupancy (s : State) : Nat := s.queue.length

/-- The number of entries of kinds other than FaultPost (R3). -/
def nonFaultPosts (s : State) : Nat := s.queue.countP fun e => !e.isFaultPost

/-- A port's need fits (R3). -/
def needFits (need : Nat) (s : State) : Bool :=
  decide (nonFaultPosts s + need ≤ Config.portCapacity ∧ occupancy s + need ≤ Config.queueCapacity)

/-- The queue holds an entry, issued or not, whose line is `line` (R91). -/
def queueHolds (line : Addr) (s : State) : Bool := s.queue.any fun e => decide (e.line = line)

/-- What an admission to a line does to the line sets and the claims (R10, R36, R60). -/
def makeVisible (line : Addr) (s : State) : State :=
  breakClaims line { s with lineSets := s.lineSets.map (LineSet.afterAdmission line) }

/-- The admission of one entry at the tail, with its effects on its line (R10). -/
def admitEntry (p : Port) (target : Addr) (body : EntryBody) (s : State) : State :=
  makeVisible (lineOf target)
    { s with queue := s.queue ++ [⟨s.nextSerial, p, target, body, false⟩], nextSerial := s.nextSerial + 1 }

/-- The admission of port p's Store, Add or Count: a settled one puts p in SettleWait on it, a posted one is
answered Done (R11). -/
def admitSettling (p : Port) (r : Request) (v : Verdict) (settled : Bool) (target : Addr) (body : EntryBody)
    (s : State) : State :=
  if settled then (admitEntry p target body s).setPort p (.settleWait r v s.nextSerial)
  else answer p (.done []) (admitEntry p target body s)

/-- The content of the Outcome entry of port p's claim write (R40, R153): the counter as the decision left it. -/
def outcomeContent (p : Port) (code : OutcomeCode) (r : Request) (s : State) : OutcomeContent :=
  ⟨s.writeCounter.get p, code, r.size, r.addr⟩

/-- The admission of a claim write whose decision and consumption have been made, with `rec` the record line of
port p (R9, R11): a Commit followed by an Outcome, or an Outcome alone. -/
def admitDecided (p : Port) (r : Request) (v : Verdict) (code : OutcomeCode) (rec : Addr) (s : State) : State :=
  if code = .committed then
    if v.attrs.settled then
      (admitEntry p rec (.outcome (outcomeContent p code r s))
        (admitEntry p r.line (.commit r.mask r.lineData true) s)).setPort p (.settleWait r v s.nextSerial)
    else
      answer p (.done [])
        (admitEntry p rec (.outcome (outcomeContent p code r s))
          (admitEntry p r.line (.commit r.mask r.lineData false) s))
  else
    answer p (.done []) (admitEntry p rec (.outcome (outcomeContent p code r s)) s)

/-- The admission of a claim write: decided on p's claim status as it stands, consumed, and its entries admitted, in
one event (R9, R38 to R41). With no record base in force no Outcome is formed (R163; DESIGN CHOICE, log entry 11). -/
def admitClaimWrite (p : Port) (r : Request) (v : Verdict) (s : State) : State :=
  match recordLine s p with
  | some rec => admitDecided p r v (decideCode s p r.line) rec (consumeClaim p s)
  | none => answer p (.done []) (consumeClaim p s)

/-- The admission of a request that writes memory, at acceptance or by the space arbiter (R2, R5, R11). -/
def admitRequest (p : Port) (r : Request) (v : Verdict) (s : State) : State :=
  match r.view, r.op with
  | .plain, .write =>
    admitSettling p r v (r.settledStore v) r.line (.store r.mask r.lineData (r.settledStore v)) s
  | .direct, .write =>
    admitSettling p r v (r.settledStore v) r.line (.store r.mask r.lineData (r.settledStore v)) s
  | .claim, .write => admitClaimWrite p r v s
  | .tally, .write => admitSettling p r v v.attrs.settled r.addr (.add r.operand v.attrs.settled) s
  | .tally, .read => (admitEntry p r.addr .count s).setPort p (.countWait r v s.nextSerial)
  | _, _ => s

/-! ### Merging -/

/-- The tail entry a posted Plain write of port p may merge into (R6): a posted, unissued Store of p on the line. -/
def Entry.takesMerge (e : Entry) (p : Port) (line : Addr) : Bool :=
  match e.body with
  | .store _ _ settled => !settled && decide (e.port = p) && decide (e.target = line) && !e.issued
  | _ => false

/-- The request merges into the tail (R5, R6). -/
def merges (p : Port) (r : Request) (v : Verdict) (s : State) : Bool :=
  decide (r.view = .plain) && decide (r.op = .write) && !v.attrs.settled &&
    match s.queue.getLast? with
    | some e => e.takesMerge p r.line
    | none => false

/-- A Store with the bytes of a write added: new data replaces old (R6). -/
def Entry.withBytes (e : Entry) (mask : Mask) (data : LineData) : Entry :=
  match e.body with
  | .store m d settled => { e with body := .store (m ||| mask) (mergeBytes mask data d) settled }
  | _ => e

/-- The queue with the bytes of a write added to its tail entry (R6). -/
def mergeIntoTail (mask : Mask) (data : LineData) : List Entry → List Entry
  | [] => []
  | [e] => [e.withBytes mask data]
  | e :: rest => e :: mergeIntoTail mask data rest

/-- A merge is an admission for every other purpose: it has the effects of R10 and is answered Done (R6, R11). -/
def mergeRequest (p : Port) (r : Request) (s : State) : State :=
  answer p (.done [])
    (makeVisible r.line { s with queue := mergeIntoTail r.mask r.lineData s.queue })

/-- A request that writes memory, at its acceptance: merged, admitted at once, or put at the end of the waiting list
in SpaceWait (R4, R5). -/
def takeWrite (p : Port) (r : Request) (v : Verdict) (s : State) : State :=
  if merges p r v s then mergeRequest p r s
  else if s.waiting = [] ∧ needFits r.need s = true then admitRequest p r v s
  else ({ s with waiting := s.waiting ++ [p] }).setPort p (.spaceWait r v)

/-! ### The space arbiter -/

/-- The first step of a pass at one port: its staging becomes a FaultPost entry while the occupancy is below 16
(R7, R8). With no record base in force none is formed (R163). -/
def admitFaultPost (p : Port) (s : State) : State :=
  match s.staging.get p, recordLine s p with
  | some f, some rec =>
    if occupancy s < Config.queueCapacity then
      admitEntry p rec (.faultPost f) (s.setStaging p none)
    else s
  | _, _ => s

/-- The first step of a pass, ports in ascending order (R7). -/
def admitFaultPosts (s : State) : State :=
  Port.all.foldl (fun t p => admitFaultPost p t) s

/-- The second step of a pass over the waiting list given: first members are admitted while their need fits (R7). -/
def serveWaiting : List Port → State → State
  | [], s => { s with waiting := [] }
  | p :: rest, s =>
    match s.ports.get p with
    | .spaceWait r v =>
      if needFits r.need s then serveWaiting rest (admitRequest p r v { s with waiting := rest })
      else { s with waiting := p :: rest }
    | _ => serveWaiting rest { s with waiting := rest }

/-- One pass of the space arbiter (R7). -/
def spacePass (s : State) : State :=
  serveWaiting (admitFaultPosts s).waiting (admitFaultPosts s)

/-- The head leaves the queue (R18). -/
def dropHead (s : State) : State := { s with queue := s.queue.tail }

/-- The removal of the head: it leaves the queue and a pass of the space arbiter runs (R18). -/
def removeHead (s : State) : State := spacePass (dropHead s)

/-! ### The Record Unit -/

/-- A fault report is absorbed into the port's staging (R155). -/
def reportFault (p : Port) (k : FaultKind) (a : Addr) (s : State) : State :=
  s.setStaging p (some (absorbFault (s.staging.get p) k a))

/-- The record-lost condition is set (R160). -/
def loseRecord (s : State) : State := { s with recordLost := true }

/-! ### Reads -/

/-- The bytes a read returns from its line (R117). -/
def Request.readBytes (r : Request) (line : LineData) : List Byte :=
  bytesFrom line (offsetOf r.addr) r.size.bytes

/-- The conditions of a prefetch of the line after `line`, which has just been served to port p under verdict v
(R62, R63). -/
def mayPrefetch (p : Port) (v : Verdict) (line : Addr) (s : State) : Bool :=
  v.attrs.stream
    && decide (line.toNat < 0xFFFFFE0)
    && decide ((windowOf (windowTable s.config) (line + 32)).map Prod.fst = some v.window)
    && decide ((s.lineSets.get p).lookup (line + 32) = none)
    && !(s.lineSets.get p).hasPrefetch
    && decide (s.mode = .serving)
    && !queueHolds (line + 32) s

/-- After a demand read of a line has been served, a prefetch of the next line is made when it may be (R62, R63). -/
def prefetchAfter (p : Port) (v : Verdict) (line : Addr) (s : State) : State :=
  if mayPrefetch p v line s then
    s.setLineSet p ((s.lineSets.get p).startFill (line + 32) .prefetch)
  else s

/-- A hit (R53): answered Done from the entry, which becomes Valid and most recent; a prefetch may follow. -/
def readHit (p : Port) (r : Request) (v : Verdict) (e : Ix4) (data : LineData) (s : State) : State :=
  prefetchAfter p v r.line
    (answer p (.done (r.readBytes data))
      (s.setLineSet p ((s.lineSets.get p).install e (.valid r.line data))))

/-- A join of the fill in an entry (R54). -/
def readJoin (p : Port) (r : Request) (v : Verdict) (e : Ix4) (f : Fill) (s : State) : State :=
  (s.setLineSet p ((s.lineSets.get p).setEntry e
    (.filling r.line { f with cls := .demand, refill := f.issued && f.overtaken }))).setPort p
      (.readWait r v (.fill e))

/-- A miss (R55): a victim becomes Filling and a demand fill is offered. -/
def readMiss (p : Port) (r : Request) (v : Verdict) (s : State) : State :=
  (s.setLineSet p ((s.lineSets.get p).startFill r.line .demand)).setPort p
    (.readWait r v (.fill (s.lineSets.get p).victim))

/-- The lookup of a buffered read (R53). -/
def readLookup (p : Port) (r : Request) (v : Verdict) (s : State) : State :=
  match (s.lineSets.get p).lookup r.line with
  | none => readMiss p r v s
  | some e =>
    match (s.lineSets.get p).entries.get e with
    | .valid _ d => readHit p r v e d s
    | .prefetched _ d => readHit p r v e d s
    | .filling _ f => readJoin p r v e f s
    | .empty => readMiss p r v s

/-- A pass read is offered and the port enters ReadWait on it (R90). -/
def offerPassRead (p : Port) (r : Request) (v : Verdict) (s : State) : State :=
  s.setPort p (.readWait r v (.pass false))

/-- The path of a Plain read, and of a Claim read after its arming: the line set with Buffered, a pass read
without (R103, R122). -/
def readPath (p : Port) (r : Request) (v : Verdict) (s : State) : State :=
  if v.attrs.buffered then readLookup p r v s else offerPassRead p r v s

/-! ### Acceptance -/

/-- The conditions under which a port accepts a presented request (R120). -/
def canAccept (p : Port) (s : State) : Bool :=
  decide (s.ports.get p = .idle) && decide (s.mode = .serving) && !s.presetLines.get p

/-- What an accepted request that passed the checks does (R103, R122). -/
def acceptPassed (p : Port) (r : Request) (v : Verdict) (s : State) : State :=
  match r.view, r.op with
  | .plain, .read => readPath p r v s
  | .direct, .read => offerPassRead p r v s
  | .claim, .read => readPath p r v (armClaim p r.line s)
  | .void, _ => s
  | _, _ => takeWrite p r v s

/-- The acceptance of a request (R108, R109, R122): refused with the reason of the first check that fails, and
nothing else changes; or sent down its path. -/
def accept (p : Port) (r : Request) (s : State) : State :=
  match accessCheck (windowTable s.config) p r with
  | .refuse reason => s.emit (.response p (.refused reason))
  | .pass v => acceptPassed p r v s

/-- A request presented on port p's link (R116, R120): accepted in the event of its arrival when p can accept, held
on the link otherwise. A master presents on a link that holds a request of its own only when it has withdrawn that one,
across its own reset or the port's; the link then presents the new request alone (DEDUCED, log entry 15). -/
def present (p : Port) (r : Request) (s : State) : State :=
  if canAccept p s then accept p r (s.setLink p none) else s.setLink p (some r)

/-- What becomes of a request on port p's link at the assertion of PRESETp: the master keeps it presented or withdraws it,
which is the master's matter (R116), a free value (log entry 15). -/
def keepOrWithdraw (p : Port) (s : State) : State :=
  match s.links.get p with
  | some r =>
    { s with
      links := s.links.set p (if Config.masterKeeps s.freeCount p then some r else none)
      freeCount := s.freeCount + 1 }
  | none => s

/-- Port p takes the request its link holds, if it can accept (R120). -/
def acceptFromLink (p : Port) (s : State) : State :=
  match s.links.get p with
  | some r => if canAccept p s then accept p r (s.setLink p none) else s
  | none => s

/-- The ports that hold a request on their links and can accept it. -/
def readyPorts (s : State) : List Port :=
  Port.all.filter fun p => (s.links.get p).isSome && canAccept p s

/-- A port put into a list of ports in ascending rank, behind those of its own rank. -/
def insertByRank (rank : Port → Nat) (p : Port) : List Port → List Port
  | [] => [p]
  | q :: rest => if rank p < rank q then p :: q :: rest else q :: insertByRank rank p rest

/-- A list of ports in ascending rank. -/
def sortByRank (rank : Port → Nat) (ps : List Port) : List Port :=
  ps.foldl (fun acc p => insertByRank rank p acc) []

/-- At the end of an event every port that can now accept the request on its link accepts it, one after another (R120).
Where several can, their order is the world's: a free value (DESIGN CHOICE, log entry 4). -/
def acceptHeld (s : State) : State :=
  match readyPorts s with
  | [] => s
  | [p] => acceptFromLink p s
  | ps =>
    (sortByRank (Config.acceptRank s.freeCount) ps).foldl (fun t p => acceptFromLink p t)
      { s with freeCount := s.freeCount + 1 }

end Sys2Proof.Machine
end

