-- ==== Sys2Proof/Machine/Downstream.lean ====
section
/-! DEFINITION. The Downstream Port: slots and tags, issue, the read-hold rule, the arbiter's candidates and the
grant. -/

namespace Sys2Proof.Machine

/-! ### Slots and tags -/

/-- All four generations are stale (R85). -/
def Slot.allStale (sl : Slot) : Bool :=
  Ix4.all.all fun g => sl.stale.get g

/-- A slot is Free: no occupant, and at least one generation not stale (R85). -/
def Slot.isFree (sl : Slot) : Bool := sl.occupant.isNone && !sl.allStale

/-- The generation of the next issue: the first of next generation, plus 1, plus 2, plus 3, that is not stale (R86). -/
def Slot.chooseGen (sl : Slot) : Ix4 :=
  if !sl.stale.get sl.nextGen then sl.nextGen
  else if !sl.stale.get sl.nextGen.next then sl.nextGen.next
  else if !sl.stale.get sl.nextGen.next.next then sl.nextGen.next.next
  else sl.nextGen.next.next.next

/-- The lowest-numbered Free slot (R94). -/
def lowestFreeSlot (s : State) : Option Ix4 :=
  Ix4.all.find? fun i => (s.slots.get i).isFree

/-- A slot after an issue in it (R85, R86, R88): the occupant with its tag and a timer of the timeout in force. -/
def Slot.issue (sl : Slot) (owner : Owner) (req : MemRequest) (timeout : Nat) : Slot :=
  { sl with occupant := some ⟨owner, req, sl.chooseGen, timeout⟩, nextGen := sl.chooseGen.next }

/-- The issue of an operation in a slot: stamped with its tag, timed, and its request sent to the partner (R83, R86,
R88). -/
def issueIn (i : Ix4) (owner : Owner) (req : MemRequest) (s : State) : State :=
  (s.setSlot i ((s.slots.get i).issue owner req (timeoutOf s))).emit
    (.request ⟨i, (s.slots.get i).chooseGen⟩ req)

/-- The occupant leaves a slot at the end of its operation (R87, R89). -/
def freeSlot (i : Ix4) (s : State) : State :=
  s.setSlot i { s.slots.get i with occupant := none }

/-- The live operation a tag names: the occupant of its slot, when the generation is the occupant's (R87). -/
def liveOp (t : Tag) (s : State) : Option Occupant :=
  match (s.slots.get t.slot).occupant with
  | some o => if o.gen = t.gen then some o else none
  | none => none

/-- A completion whose tag names no live operation is discarded; a stale generation it carries leaves the stale set
(R87). -/
def discardCompletion (t : Tag) (s : State) : State :=
  s.setSlot t.slot
    { s.slots.get t.slot with stale := (s.slots.get t.slot).stale.set t.gen false }

/-! ### The read-hold rule -/

/-- The operation counts as a read of its line in flight (R92): fills, pass reads and discarded operations. -/
def Owner.countsAsRead : Owner → Bool
  | .fill _ _ => true
  | .pass _ => true
  | .discarded => true
  | _ => false

/-- The operation belongs to the Write Queue: a line write or a phase of a locked update (R85, R97). -/
def Owner.ofQueue : Owner → Bool
  | .lineWrite => true
  | .readPhase => true
  | .writePhase => true
  | _ => false

/-- A read of the line is in flight (R92). -/
def readInFlight (line : Addr) (s : State) : Bool :=
  Ix4.all.any fun i =>
    match (s.slots.get i).occupant with
    | some o => o.owner.countsAsRead && decide (memRequestLine o.req = line)
    | none => false

/-- An operation of the Write Queue is in flight (R85, R97). -/
def queueInFlight (s : State) : Bool :=
  Ix4.all.any fun i =>
    match (s.slots.get i).occupant with
    | some o => o.owner.ofQueue
    | none => false

/-! ### Candidates -/

/-- The queue head when it is a candidate (R12, R92, R93): not issued, no entry of the queue in flight, and no read of its
line in flight. -/
def headCandidate (s : State) : Option Entry :=
  match s.queue.head? with
  | some e => if e.issued = false ∧ queueInFlight s = false ∧ readInFlight e.line s = false then some e else none
  | none => none

/-- A waiting read: its owner and its request. -/
structure Offer where
  owner : Owner
  req : MemRequest
  deriving DecidableEq, Repr

/-- Port p's waiting demand read, held or not (R56, R83, R90). -/
def waitingDemand (p : Port) (s : State) : Option Offer :=
  match s.ports.get p with
  | .readWait _ _ (.fill e) =>
    match (s.lineSets.get p).entries.get e with
    | .filling l f =>
      if f.cls = .demand ∧ f.issued = false then some ⟨.fill p e, .read .b32 l⟩ else none
    | _ => none
  | .readWait r _ (.pass false) => some ⟨.pass p, .read r.size r.addr⟩
  | _ => none

/-- The read-hold rule holds a read: the Write Queue holds an entry on its line (R91). -/
def Offer.isHeld (o : Offer) (s : State) : Bool := queueHolds (memRequestLine o.req) s

/-- Port p's demand read is a candidate (R93). -/
def demandCandidate (p : Port) (s : State) : Bool :=
  match waitingDemand p s with
  | some o => !o.isHeld s
  | none => false

/-- Port p's demand read waits while the read-hold rule holds it (R95). -/
def demandHeld (p : Port) (s : State) : Bool :=
  match waitingDemand p s with
  | some o => o.isHeld s
  | none => false

/-- Port p has a waiting prefetch, a candidate (R93). -/
def prefetchCandidate (p : Port) (s : State) : Bool :=
  (s.lineSets.get p).waitingPrefetch.isSome

/-- The loader's read waits for its grant (R93, R98). -/
def loaderCandidate (s : State) : Bool :=
  decide (s.mode = .loading) && s.loader.offered

/-- Some candidate waits (R99). -/
def anyCandidate (s : State) : Bool :=
  loaderCandidate s || (headCandidate s).isSome
    || Port.all.any (fun p => demandCandidate p s) || Port.all.any (fun p => prefetchCandidate p s)

/-- A port waits in SettleWait or CountWait (R95). -/
def PortState.waitsOnEntry : PortState → Bool
  | .settleWait _ _ _ => true
  | .countWait _ _ _ => true
  | _ => false

/-- The conditions that urge a head that is a candidate (R95). -/
def urgeCondition (s : State) : Bool :=
  decide (urgeOf s.config ≤ occupancy s)
    || Port.all.any (fun p => (s.ports.get p).waitsOnEntry)
    || Port.all.any (fun p => demandHeld p s)

/-- A round-robin choice with a pointer: the first port from the one after the pointer on that has a candidate
(R96). -/
def roundRobin (pointer : Port) (has : Port → Bool) : Option Port :=
  [pointer.next, pointer.next.next, pointer.next.next.next, pointer.next.next.next.next,
    pointer.next.next.next.next.next, pointer].find? has

/-! ### Issue of each kind -/

/-- The head's issued field becomes yes (R12). -/
def markHeadIssued (s : State) : State :=
  match s.queue with
  | e :: rest => { s with queue := { e with issued := true } :: rest }
  | [] => s

/-- The owner of a head's operation at its issue: a line write, or the read phase of a locked update (R12, R17). -/
def EntryBody.issueOwner : EntryBody → Owner
  | .store _ _ _ => .lineWrite
  | .commit _ _ _ => .lineWrite
  | .outcome _ => .lineWrite
  | .add _ _ => .readPhase
  | .count => .readPhase
  | .faultPost _ => .readPhase

/-- The request a head is issued with: its line write (R13), or its read phase (R70). -/
def Entry.issueRequest (e : Entry) : MemRequest :=
  match e.body with
  | .store m d _ => .write e.target m d
  | .commit m d _ => .write e.target m d
  | .outcome c => .write e.target outcomeMask (outcomeData c)
  | .add _ _ => .read .b4 e.target
  | .count => .read .b4 e.target
  | .faultPost _ => .read .b32 e.target

/-- The Update Engine after the issue of a head: Busy in phase Read for a locked kind (R70). -/
def Entry.engineAtIssue (e : Entry) (engine : Engine) : Engine :=
  match e.body with
  | .add _ _ => .reading e.serial
  | .count => .reading e.serial
  | .faultPost _ => .reading e.serial
  | _ => engine

/-- The head is issued in a slot (R12, R13, R17, R70). -/
def issueHead (i : Ix4) (e : Entry) (s : State) : State :=
  issueIn i e.body.issueOwner e.issueRequest
    { markHeadIssued s with engine := e.engineAtIssue s.engine }

/-- Port p's demand read is marked issued (R56, R90). -/
def markDemandIssued (p : Port) (s : State) : State :=
  match s.ports.get p with
  | .readWait _ _ (.fill e) =>
    s.setLineSet p ((s.lineSets.get p).setEntry e ((s.lineSets.get p).entries.get e).issueFill)
  | .readWait r v (.pass _) => s.setPort p (.readWait r v (.pass true))
  | _ => s

/-- Port p's demand read is issued in a slot, and the demand pointer becomes p (R94, R96). -/
def issueDemand (i : Ix4) (p : Port) (s : State) : State :=
  match waitingDemand p s with
  | some o => issueIn i o.owner o.req { markDemandIssued p s with demandPtr := p }
  | none => s

/-- Port p's prefetch is issued in a slot, and the prefetch pointer becomes p (R94, R96). -/
def issuePrefetch (i : Ix4) (p : Port) (s : State) : State :=
  match (s.lineSets.get p).waitingPrefetch with
  | some e =>
    match ((s.lineSets.get p).entries.get e).line? with
    | some l =>
      issueIn i (.fill p e) (.read .b32 l)
        { s.setLineSet p ((s.lineSets.get p).setEntry e ((s.lineSets.get p).entries.get e).issueFill) with
          prefetchPtr := p }
    | none => s
  | none => s

/-- The line the loader reads: the header line, or further line k (R169). -/
def Loader.readAddr (l : Loader) : Addr :=
  match l.phase with
  | .line k _ => l.location + BitVec.ofNat 28 (32 * k)
  | _ => l.location

/-- The loader's read is issued in a slot (R98). -/
def issueLoader (i : Ix4) (s : State) : State :=
  issueIn i .loader (.read .b32 s.loader.readAddr)
    { s with loader := { s.loader with offered := false } }

/-! ### The grant -/

/-- What takes a slot at a grant (R94, R98). -/
inductive Choice where
  | head (e : Entry)
  | demand (p : Port)
  | prefetch (p : Port)
  | loader
  deriving DecidableEq, Repr

/-- The head when it is a candidate and is urged (R95). -/
def urgedHead (s : State) : Option Entry :=
  if urgeCondition s then headCandidate s else none

/-- The first candidate in the order of R94; during Loading the loader's read alone (R98). -/
def grantChoice (s : State) : Option Choice :=
  if s.mode = .loading then (if s.loader.offered then some .loader else none)
  else
    match urgedHead s with
    | some e => some (.head e)
    | none =>
      match roundRobin s.demandPtr (fun p => demandCandidate p s) with
      | some p => some (.demand p)
      | none =>
        match headCandidate s with
        | some e => some (.head e)
        | none =>
          match roundRobin s.prefetchPtr (fun p => prefetchCandidate p s) with
          | some p => some (.prefetch p)
          | none => none

/-- The chosen candidate is issued in a slot (R94). -/
def issueChoice (i : Ix4) (c : Choice) (s : State) : State :=
  match c with
  | .head e => issueHead i e s
  | .demand p => issueDemand i p s
  | .prefetch p => issuePrefetch i p s
  | .loader => issueLoader i s

/-- One grant: the lowest-numbered Free slot goes to the first candidate; with no Free slot or no candidate no grant is
made (R94). -/
def grantOnce (s : State) : State :=
  match lowestFreeSlot s, grantChoice s with
  | some i, some c => issueChoice i c s
  | _, _ => s

end Sys2Proof.Machine
end

