-- ==== Sys2Proof/Machine/Setup.lean ====
section
/-! DEFINITION. The Setup Loader and Device Control: the fields and checks of the setup block, load completion, the drain
and its completion condition, and what follows every event. -/

namespace Sys2Proof.Machine

/-! ### The setup block -/

/-- Word i of a block: bytes 4 i to 4 i + 3, little-endian (R178). A word past the lines read is 0. -/
def blockWord (block : List LineData) (i : Nat) : Nat :=
  match block[i / 8]? with
  | some line => (wordAt line (4 * (i % 8))).toNat
  | none => 0

/-- Bits lo to lo + n − 1 of a word. -/
def wordField (w lo n : Nat) : Nat := w / 2 ^ lo % 2 ^ n

/-- The mark (R178). -/
def blockMark (b : List LineData) : Nat := blockWord b 0

/-- The format level (R178). -/
def blockLevel (b : List LineData) : Nat := wordField (blockWord b 1) 0 8

/-- The window count n (R178). -/
def blockCount (b : List LineData) : Nat := wordField (blockWord b 1) 8 8

/-- The tick exponent (R178). -/
def blockTickExponent (b : List LineData) : Nat := wordField (blockWord b 1) 16 8

/-- The urge threshold (R178). -/
def blockUrge (b : List LineData) : Nat := wordField (blockWord b 1) 24 8

/-- The claim hold (R178). -/
def blockClaimHold (b : List LineData) : Nat := wordField (blockWord b 2) 0 16

/-- The downstream timeout (R178). -/
def blockTimeout (b : List LineData) : Nat := wordField (blockWord b 2) 16 16

/-- The record base (R178). -/
def blockRecordBase (b : List LineData) : Nat := blockWord b 3

/-- The attributes of descriptor i (R178). -/
def descAttributes (b : List LineData) (i : Nat) : Nat := wordField (blockWord b (10 + 4 * i)) 0 16

/-- The set of ports a mask byte names: bit p for port p (R178). -/
def portMask (m : Nat) : PerPort Bool :=
  ⟨m.testBit 0, m.testBit 1, m.testBit 2, m.testBit 3, m.testBit 4, m.testBit 5⟩

/-- The attribute set of bits 0 to 4 (R178). -/
def attributeSet (a : Nat) : Attributes :=
  ⟨a.testBit 0, a.testBit 1, a.testBit 2, a.testBit 3, a.testBit 4⟩

/-- The window descriptor i gives (R113, R178). -/
def descWindow (b : List LineData) (i : Nat) : Window where
  base := BitVec.ofNat 16 (blockWord b (8 + 4 * i))
  limit := BitVec.ofNat 16 (blockWord b (9 + 4 * i))
  attrs := attributeSet (descAttributes b i)
  readPorts := portMask (wordField (blockWord b (10 + 4 * i)) 16 8)
  writePorts := portMask (wordField (blockWord b (10 + 4 * i)) 24 8)

/-- Check 10 on descriptor i (R171, R178). -/
def descPasses (b : List LineData) (i : Nat) : Bool :=
  decide (blockWord b (8 + 4 * i) ≤ blockWord b (9 + 4 * i))
    && decide (blockWord b (9 + 4 * i) ≤ 0xFFFF)
    && !((descAttributes b i).testBit 1 && !(descAttributes b i).testBit 0)
    && decide (descAttributes b i < 32)
    && decide (wordField (blockWord b (10 + 4 * i)) 16 8 < 64)
    && decide (wordField (blockWord b (10 + 4 * i)) 24 8 < 64)
    && decide (blockWord b (11 + 4 * i) = 0)

/-- The sum of all header words, descriptor words and the check word (R171). -/
def blockSum (b : List LineData) : Nat :=
  (List.range (8 + 4 * blockCount b + 1)).foldl (fun acc i => acc + blockWord b i) 0

/-- Checks 1 to 3: mark, format level, window count (R171). -/
def headerPasses (b : List LineData) : Bool :=
  decide (blockMark b = Config.setupMark)
    && decide (blockLevel b = 1)
    && decide (1 ≤ blockCount b ∧ blockCount b ≤ 16)

/-- Checks 4 to 11 (R171). -/
def bodyPasses (b : List LineData) : Bool :=
  decide (blockTickExponent b ≤ 15)
    && decide (1 ≤ blockClaimHold b ∧ blockClaimHold b ≤ 4095)
    && decide (1 ≤ blockTimeout b)
    && decide (1 ≤ blockUrge b ∧ blockUrge b ≤ 14)
    && decide (blockRecordBase b % 32 = 0 ∧ blockRecordBase b + 192 ≤ 0x10000000)
    && [4, 5, 6, 7].all (fun i => decide (blockWord b i = 0))
    && (List.range (blockCount b)).all (fun i => descPasses b i)
    && decide (blockSum b % 2 ^ 32 = 0)

/-- The number of further lines: n / 2 rounded down, plus 1 (R169). -/
def furtherLines (n : Nat) : Nat := n / 2 + 1

/-- What a block installs (R113, R172). -/
def setupOf (b : List LineData) : Setup where
  windows := (List.range (blockCount b)).map (descWindow b)
  tickExponent := blockTickExponent b
  timeout := blockTimeout b
  claimHold := blockClaimHold b
  urge := blockUrge b
  recordBase := BitVec.ofNat 28 (blockRecordBase b)

/-- The configuration a block that has been read whole gives: Loaded when it passes every check, Fallback otherwise
(R171, R172). -/
def loadResult (b : List LineData) : Configuration :=
  if headerPasses b && bodyPasses b then .loaded (setupOf b) else .fallback

/-! ### Loading -/

/-- A Loading begins (R166, R168, R169): the straps are sampled, and the loader offers its header read. -/
def startLoading (s : State) : State :=
  { s with
    mode := .loading
    straps := Config.strapLevels s.freeCount
    freeCount := s.freeCount + 1
    loader :=
      { phase := .header
        offered := true
        location := BitVec.ofNat 28 (Config.setupStride * (Config.strapLevels s.freeCount).toNat)
        block := [] } }

/-- Load completion (R172, R173): the result is installed, the line sets and the record-lost condition are cleared, and
the device serves, or begins a new Loading when the latch is set. -/
def loadComplete (result : Configuration) (s : State) : State :=
  let installed : State :=
    { s with
      config := result
      lineSets := PerPort.const LineSet.allEmpty
      recordLost := false
      loader := { s.loader with phase := .ended, offered := false, block := [] } }
  if s.reloadLatch then startLoading { installed with reloadLatch := false }
  else { installed with mode := .serving }

/-- The loader offers the read of further line k of m (R169). -/
def offerLine (k m : Nat) (s : State) : State :=
  { s with loader := { s.loader with phase := .line k m, offered := true } }

/-- The line just read joins the block buffer (R169). -/
def takeLine (line : LineData) (s : State) : State :=
  { s with loader := { s.loader with block := s.loader.block ++ [line] } }

/-- The end of a loader read (R169 to R171). -/
def loaderEnd (res : EndResult) (s : State) : State :=
  match res with
  | .ok line =>
    match s.loader.phase with
    | .header =>
      if headerPasses (s.loader.block ++ [line]) then
        offerLine 1 (furtherLines (blockCount (s.loader.block ++ [line]))) (takeLine line s)
      else loadComplete .fallback s
    | .line k m =>
      if k < m then offerLine (k + 1) m (takeLine line s)
      else loadComplete (loadResult (s.loader.block ++ [line])) s
    | .ended => s
  | .error => loadComplete .fallback s
  | .timeout => loadComplete .fallback s

/-! ### The drain -/

/-- Drain start (R44, R67, R175): the mode is Draining, every claim is dropped, waiting prefetches are withdrawn. -/
def drainStart (s : State) : State :=
  dropClaims { s with mode := .draining, lineSets := s.lineSets.map LineSet.afterDrainStart }

/-- A port holds no request: it is Idle or in Reset (R126). -/
def PortState.holdsNone : PortState → Bool
  | .idle => true
  | .reset => true
  | _ => false

/-- The Downstream Port is idle: no slot Occupied and no candidate waiting (R99). -/
def downstreamIdle (s : State) : Bool :=
  Ix4.all.all (fun i => (s.slots.get i).occupant.isNone) && !anyCandidate s

/-- The drain completion condition (R176). -/
def drainComplete (s : State) : Bool :=
  Port.all.all (fun p => (s.ports.get p).holdsNone)
    && decide (s.queue = [])
    && Port.all.all (fun p => (s.staging.get p).isNone)
    && downstreamIdle s

/-- Device Control's test of the drain completion condition: in the event in which it first holds, the device enters
Loading (R176). -/
def drainTest (s : State) : State :=
  if s.mode = .draining ∧ drainComplete s = true then startLoading s else s

/-- What ends every event: requests that can now be accepted are accepted (R120), and a drain that is complete ends
(R176). -/
def finishEvent (s : State) : State := drainTest (acceptHeld s)

end Sys2Proof.Machine
end

