-- ==== Sys2Proof/Machine/Ends.lean ====
section
/-! DEFINITION. What the end of each downstream operation does at its owner: fills, pass reads, line writes, the phases of
locked updates, loader reads; and the arrival of completions, timeouts and ticks. -/

namespace Sys2Proof.Machine

/-- The reason a Failed response gives for an end that is not OK (R14, R59, R90). -/
def failReasonOf : EndResult → FailReason
  | .timeout => .downstreamTimeout
  | _ => .downstreamError

/-! ### Fills and pass reads -/

/-- Entry e of port p's line set replaced. -/
def setLineEntry (p : Port) (e : Ix4) (x : LineEntry) (s : State) : State :=
  s.setLineSet p ((s.lineSets.get p).setEntry e x)

/-- Entry e of port p's line set takes its data and becomes most recent (R57). -/
def installEntry (p : Port) (e : Ix4) (x : LineEntry) (s : State) : State :=
  s.setLineSet p ((s.lineSets.get p).install e x)

/-- The request and verdict of the port that waits on the fill in entry e of its line set (R118, R123). -/
def fillWaiter (p : Port) (e : Ix4) (s : State) : Option (Request × Verdict) :=
  match s.ports.get p with
  | .readWait r v (.fill e') => if e' = e then some (r, v) else none
  | _ => none

/-- The waiting port is answered Done with its bytes of the line returned (R57, R58). -/
def answerFill (p : Port) (e : Ix4) (data : LineData) (s : State) : State :=
  match fillWaiter p e s with
  | some (r, _) => answer p (.done (r.readBytes data)) s
  | none => s

/-- The waiting port is answered Failed (R59). -/
def failFill (p : Port) (e : Ix4) (reason : FailReason) (s : State) : State :=
  match fillWaiter p e s with
  | some _ => answer p (.failed reason) s
  | none => s

/-- A demand fill that was not overtaken is installed: the port is answered, the entry is Valid and most recent, and a
prefetch may follow (R57, R62). -/
def installDemand (p : Port) (e : Ix4) (line : Addr) (data : LineData) (s : State) : State :=
  match fillWaiter p e s with
  | some (r, v) =>
    prefetchAfter p v line (answer p (.done (r.readBytes data)) (installEntry p e (.valid line data) s))
  | none => installEntry p e (.valid line data) s

/-- The fill fields of a demand fill that is offered again (R58). -/
def refilled : Fill := ⟨.demand, false, false, false⟩

/-- The completion with OK of an issued fill (R57, R58). -/
def fillDone (p : Port) (e : Ix4) (line : Addr) (f : Fill) (data : LineData) (s : State) : State :=
  if f.overtaken then
    match f.cls with
    | .prefetch => setLineEntry p e .empty s
    | .demand =>
      if f.refill then setLineEntry p e (.filling line refilled) s
      else setLineEntry p e .empty (answerFill p e data s)
  else
    match f.cls with
    | .prefetch => installEntry p e (.prefetched line data) s
    | .demand => installDemand p e line data s

/-- The end of an issued fill with ERROR or Timeout (R59). -/
def fillFailed (p : Port) (e : Ix4) (line : Addr) (f : Fill) (reason : FailReason) (s : State) : State :=
  match f.cls with
  | .prefetch => setLineEntry p e .empty s
  | .demand =>
    if f.refill then setLineEntry p e (.filling line refilled) s
    else setLineEntry p e .empty (failFill p e reason s)

/-- The end of the fill in entry e of port p's line set (R57 to R59). -/
def fillEnd (p : Port) (e : Ix4) (res : EndResult) (s : State) : State :=
  match (s.lineSets.get p).entries.get e with
  | .filling line f =>
    if f.issued then
      match res with
      | .ok data => fillDone p e line f data s
      | .error => fillFailed p e line f (failReasonOf res) s
      | .timeout => fillFailed p e line f (failReasonOf res) s
    else s
  | _ => s

/-- The end of port p's pass read (R90). -/
def passEnd (p : Port) (res : EndResult) (s : State) : State :=
  match s.ports.get p with
  | .readWait r _ (.pass true) =>
    match res with
    | .ok data => answer p (.done (bytesFrom data 0 r.size.bytes)) s
    | .error => answer p (.failed (failReasonOf res)) s
    | .timeout => answer p (.failed (failReasonOf res)) s
  | _ => s

/-! ### Line writes -/

/-- The response a settled entry gives at its end (R14, R15, R76). -/
def settledResponse (res : EndResult) : Response :=
  match res with
  | .ok _ => .done []
  | .error => .failed (failReasonOf res)
  | .timeout => .failed (failReasonOf res)

/-- What a Store head's completion owes besides its removal (R14). -/
def storeReport (e : Entry) (settled : Bool) (res : EndResult) (s : State) : State :=
  if settled then deliver e.port e.serial (settledResponse res) s
  else
    match res with
    | .ok _ => s
    | .error => reportFault e.port .storeError e.target s
    | .timeout => reportFault e.port .storeTimeout e.target s

/-- What a Commit head's completion owes besides the rewrite and its removal (R15). -/
def commitReport (e : Entry) (settled : Bool) (res : EndResult) (s : State) : State :=
  if settled then deliver e.port e.serial (settledResponse res) s
  else
    match res with
    | .ok _ => s
    | .error => reportFault e.port .commitError e.target s
    | .timeout => reportFault e.port .commitTimeout e.target s

/-- An Outcome entry with its code rewritten to Failed (R15). -/
def Entry.withFailedCode (e : Entry) : Entry :=
  match e.body with
  | .outcome c => { e with body := .outcome { c with code := .failed } }
  | _ => e

/-- The Outcome directly behind a failed Commit head has its code rewritten to Failed (R15). -/
def rewriteBehindHead (queue : List Entry) : List Entry :=
  match queue with
  | head :: behind :: rest => head :: behind.withFailedCode :: rest
  | q => q

/-- The rewrite at the completion of a Commit head: none with Done (R15). -/
def commitRewrite (res : EndResult) (s : State) : State :=
  match res with
  | .ok _ => s
  | .error => { s with queue := rewriteBehindHead s.queue }
  | .timeout => { s with queue := rewriteBehindHead s.queue }

/-- The end of a Store head's line write (R14, R18). -/
def storeEnd (e : Entry) (settled : Bool) (res : EndResult) (s : State) : State :=
  removeHead (storeReport e settled res s)

/-- The end of a Commit head's line write (R15, R18). -/
def commitEnd (e : Entry) (settled : Bool) (res : EndResult) (s : State) : State :=
  removeHead (commitRewrite res (commitReport e settled res s))

/-- The end of an Outcome head's line write (R16, R18). -/
def outcomeEnd (res : EndResult) (s : State) : State :=
  match res with
  | .ok _ => removeHead s
  | .error => removeHead (loseRecord s)
  | .timeout => removeHead (loseRecord s)

/-- The end of the head's line write, by the head's kind (R13). -/
def lineWriteEnd (res : EndResult) (s : State) : State :=
  match s.queue.head? with
  | some e =>
    match e.body with
    | .store _ _ settled => storeEnd e settled res s
    | .commit _ _ settled => commitEnd e settled res s
    | .outcome _ => outcomeEnd res s
    | _ => s
  | none => s

/-! ### Locked updates -/

/-- The result of an update (R75). -/
inductive UpdateResult where
  | done | readError | readTimeout | writeError | writeTimeout
  deriving DecidableEq, Repr

/-- The reason a failed update gives on a response (R76, R77). -/
def UpdateResult.reason : UpdateResult → FailReason
  | .readTimeout => .downstreamTimeout
  | .writeTimeout => .downstreamTimeout
  | _ => .downstreamError

/-- The fault kind a failed posted Add reports (R76). -/
def UpdateResult.addKind : UpdateResult → FaultKind
  | .readTimeout => .addTimeout
  | .writeTimeout => .addTimeout
  | _ => .addError

/-- The report of a wrap, for an Add or Count whose update is Done (R76, R77). -/
def wrapReport (e : Entry) (wrap : Bool) (s : State) : State :=
  if wrap then reportFault e.port .wrap e.target s else s

/-- The old value and the wrap the engine holds (R69). -/
def Engine.oldValue : Engine → Word
  | .writing _ (.word old _ _) => old
  | _ => 0

def Engine.wraps : Engine → Bool
  | .writing _ (.word _ _ w) => w
  | _ => false

/-- The end of an Add: its response and its report (R76). -/
def addEnd (e : Entry) (settled : Bool) (result : UpdateResult) (s : State) : State :=
  match result with
  | .done =>
    wrapReport e s.engine.wraps (if settled then deliver e.port e.serial (.done []) s else s)
  | _ =>
    if settled then deliver e.port e.serial (.failed result.reason) s
    else reportFault e.port result.addKind e.target s

/-- The end of a Count: its response and its report (R77). -/
def countEnd (e : Entry) (result : UpdateResult) (s : State) : State :=
  match result with
  | .done =>
    wrapReport e s.engine.wraps (deliver e.port e.serial (.done (wordBytes s.engine.oldValue)) s)
  | _ => deliver e.port e.serial (.failed result.reason) s

/-- The end of a FaultPost: the FAULT pulse, or the record-lost condition (R158, R159). -/
def faultPostEnd (result : UpdateResult) (s : State) : State :=
  match result with
  | .done => if s.notifyMark = some true then s.emit .faultPulse else s
  | _ => loseRecord s

/-- What the end of the head's update owes, by the head's kind (R76, R77, R158). -/
def updateReport (e : Entry) (result : UpdateResult) (s : State) : State :=
  match e.body with
  | .add _ settled => addEnd e settled result s
  | .count => countEnd e result s
  | .faultPost _ => faultPostEnd result s
  | _ => s

/-- The engine becomes Idle and the Notify mark is discarded (R75, R158). -/
def engineIdle (s : State) : State := { s with engine := .idle, notifyMark := none }

/-- The end of the update in flight (R75): response and report, the engine Idle, and the removal of the entry. -/
def updateEnd (result : UpdateResult) (s : State) : State :=
  match s.queue.head? with
  | some e => removeHead (engineIdle (updateReport e result s))
  | none => engineIdle s

/-- The write phase of an Add or Count is issued in the slot held (R74). -/
def issueWordWrite (i : Ix4) (e : Entry) (old : Word) (nw : Word × Bool) (s : State) : State :=
  issueIn i .writePhase
    (.write e.line (spanMask (offsetOf e.target) 4) (wordLineData nw.1 (offsetOf e.target)))
    { s with engine := .writing e.serial (.word old nw.1 nw.2) }

/-- The write phase of a FaultPost is issued in the slot held, and the Notify mark is kept (R73, R74, R157). -/
def issueRecordWrite (i : Ix4) (e : Entry) (f : FaultContent) (line : LineData) (s : State) : State :=
  issueIn i .writePhase (.write e.target faultMask (faultLineData (faultMerge line f)))
    { s with
      engine := .writing e.serial (.record (faultMerge line f))
      notifyMark := some (decide (notifyByte line ≠ 0)) }

/-- The end of the read phase in slot i (R71 to R75). -/
def readPhaseEnd (i : Ix4) (res : EndResult) (s : State) : State :=
  match res with
  | .ok data =>
    match s.queue.head? with
    | some e =>
      match e.body with
      | .add operand _ => issueWordWrite i e (wordAt data 0) (addWord (wordAt data 0) operand) s
      | .count => issueWordWrite i e (wordAt data 0) (countWord (wordAt data 0)) s
      | .faultPost f => issueRecordWrite i e f data s
      | _ => s
    | none => s
  | .error => updateEnd .readError s
  | .timeout => updateEnd .readTimeout s

/-- The end of the write phase (R75). -/
def writePhaseEnd (res : EndResult) (s : State) : State :=
  match res with
  | .ok _ => updateEnd .done s
  | .error => updateEnd .writeError s
  | .timeout => updateEnd .writeTimeout s

/-! ### Arrival of ends -/

/-- The owner of an operation receives its end; the occupant has left slot i (R89). -/
def endOperation (i : Ix4) (owner : Owner) (res : EndResult) (s : State) : State :=
  match owner with
  | .fill p e => fillEnd p e res s
  | .pass p => passEnd p res s
  | .lineWrite => lineWriteEnd res s
  | .readPhase => readPhaseEnd i res s
  | .writePhase => writePhaseEnd res s
  | .loader => loaderEnd res s
  | .discarded => s

/-- The arrival of a completion with a tag (R87): delivered to the owner of the live operation the tag names, and
discarded when there is none. -/
def arriveCompletion (t : Tag) (c : Completion) (s : State) : State :=
  match liveOp t s with
  | some o => endOperation t.slot o.owner (endOf c) (freeSlot t.slot s)
  | none => discardCompletion t s

/-- An operation that times out leaves its slot, and its generation becomes stale (R86, R88). -/
def abandonSlot (i : Ix4) (g : Ix4) (s : State) : State :=
  s.setSlot i { s.slots.get i with occupant := none, stale := (s.slots.get i).stale.set g true }

/-- The expiry of the timeout timer of the operation a tag names (R88): Timeout goes to its owner. An operation that has
ended has no timer (R87). -/
def takeTimeout (t : Tag) (s : State) : State :=
  match liveOp t s with
  | some o => endOperation t.slot o.owner .timeout (abandonSlot t.slot t.gen s)
  | none => s

/-! ### Time -/

/-- An expiry that is due. -/
inductive Expiry where
  | hold (c : Ix4) (stamp : BitVec 8)
  | operation (t : Tag)
  deriving DecidableEq, Repr

/-- The hold timers that have run out (R33). -/
def dueHolds (s : State) : List Expiry :=
  Ix4.all.filterMap fun c =>
    match s.claimTable.get c with
    | some cl => if cl.timer = some 0 then some (.hold c cl.order) else none
    | none => none

/-- The timeout timers that have run out (R88). -/
def dueOperations (s : State) : List Expiry :=
  Ix4.all.filterMap fun i =>
    match (s.slots.get i).occupant with
    | some o => if o.timer = 0 then some (.operation ⟨i, o.gen⟩) else none
    | none => none

/-- A claim's timer at a tick boundary (R33). -/
def Claim.tick (cl : Claim) : Claim := { cl with timer := cl.timer.map (· - 1) }

/-- A slot's timer at a tick boundary (R88). -/
def Slot.tick (sl : Slot) : Slot :=
  { sl with occupant := sl.occupant.map fun o => { o with timer := o.timer - 1 } }

/-- One boundary of the timebase: every running timer counts it (R33, R88). -/
def countBoundary (s : State) : State :=
  { s with
    claimTable := s.claimTable.map (fun c => c.map Claim.tick)
    slots := s.slots.map Slot.tick }

/-- One expiry is taken (R34, R88). -/
def takeExpiry (x : Expiry) (s : State) : State :=
  match x with
  | .hold c stamp => takeHoldExpiry c stamp s
  | .operation t => finishEvent (takeTimeout t s)

/-- What the part does when no command waits (DESIGN CHOICE, log entry 5): it takes one expiry that is
due, or, when none is, one tick boundary passes. Which of several is taken first is a free value. -/
def tickEvent (s : State) : State :=
  match dueHolds s ++ dueOperations s with
  | [] => countBoundary s
  | [x] => takeExpiry x s
  | x :: xs =>
    takeExpiry (((x :: xs)[Config.expiryChoice s.freeCount % (xs.length + 1)]?).getD x)
      { s with freeCount := s.freeCount + 1 }

end Sys2Proof.Machine
end

