-- ==== Sys2Proof/Machine/Arbitration.lean ====
section
/-! DEFINITION. The meanings of the space arbiter's pass and of a grant. -/

namespace Sys2Proof.Machine

/-- SPACE_ARBITER_PASS (R7): one pass of the space arbiter. Every event that frees room runs its pass within itself (R18,
R4), so a pass on its own finds nothing left to admit in any state a run reaches (DEDUCED, log entry 6). -/
def execSpaceArbiterPass (s : State) : Host.Outcome State Fault Refusal :=
  .next (finishEvent (spacePass (beginEvent s)))

/-- GRANT (R94): one grant; none is made with no Free slot or no candidate. -/
def execGrant (s : State) : Host.Outcome State Fault Refusal :=
  .next (grantOnce (beginEvent s))

end Sys2Proof.Machine
end

