-- ==== Sys2Proof/Machine/Completions.lean ====
section
/-! DEFINITION. The meanings of the completions on the memory link and of the downstream timeout. Each row names the
operation whose completion it is; the tag alone decides where a completion goes (R87), so one whose tag names another
operation goes to that operation's owner (DEDUCED, log entry 7). -/

namespace Sys2Proof.Machine

/-- The owner of the live operation a tag names (R87, R89). -/
def liveOwner (t : Tag) (s : State) : Option Owner := (liveOp t s).map Occupant.owner

/-- FILL_COMPLETION (R57 to R59): the end of an issued fill. -/
def execFillCompletion (t : Tag) (c : Completion) (s : State) : Host.Outcome State Fault Refusal :=
  match liveOwner t s with
  | some (.fill p e) => .next (finishEvent (fillEnd p e (endOf c) (freeSlot t.slot (beginEvent s))))
  | _ => .next (finishEvent (arriveCompletion t c (beginEvent s)))

/-- PASS_READ_COMPLETION (R90): the end of a pass read. -/
def execPassReadCompletion (t : Tag) (c : Completion) (s : State) : Host.Outcome State Fault Refusal :=
  match liveOwner t s with
  | some (.pass p) => .next (finishEvent (passEnd p (endOf c) (freeSlot t.slot (beginEvent s))))
  | _ => .next (finishEvent (arriveCompletion t c (beginEvent s)))

/-- The head of the queue, when the tag names its line write in flight (R12, R13). -/
def lineWriteHead (t : Tag) (s : State) : Option Entry :=
  match liveOwner t s with
  | some .lineWrite => s.queue.head?
  | _ => none

/-- STORE_COMPLETION (R14): the end of a Store head's line write. -/
def execStoreCompletion (t : Tag) (c : Completion) (s : State) : Host.Outcome State Fault Refusal :=
  match lineWriteHead t s with
  | some ⟨serial, p, target, .store m d settled, issued⟩ =>
    .next (finishEvent (storeEnd ⟨serial, p, target, .store m d settled, issued⟩ settled (endOf c)
      (freeSlot t.slot (beginEvent s))))
  | _ => .next (finishEvent (arriveCompletion t c (beginEvent s)))

/-- COMMIT_COMPLETION (R15): the end of a Commit head's line write. -/
def execCommitCompletion (t : Tag) (c : Completion) (s : State) : Host.Outcome State Fault Refusal :=
  match lineWriteHead t s with
  | some ⟨serial, p, target, .commit m d settled, issued⟩ =>
    .next (finishEvent (commitEnd ⟨serial, p, target, .commit m d settled, issued⟩ settled (endOf c)
      (freeSlot t.slot (beginEvent s))))
  | _ => .next (finishEvent (arriveCompletion t c (beginEvent s)))

/-- OUTCOME_COMPLETION (R16): the end of an Outcome head's line write. -/
def execOutcomeCompletion (t : Tag) (c : Completion) (s : State) : Host.Outcome State Fault Refusal :=
  match lineWriteHead t s with
  | some ⟨_, _, _, .outcome _, _⟩ =>
    .next (finishEvent (outcomeEnd (endOf c) (freeSlot t.slot (beginEvent s))))
  | _ => .next (finishEvent (arriveCompletion t c (beginEvent s)))

/-- READ_PHASE_COMPLETION (R74, R75): the end of a locked update's read phase. -/
def execReadPhaseCompletion (t : Tag) (c : Completion) (s : State) : Host.Outcome State Fault Refusal :=
  match liveOwner t s with
  | some .readPhase => .next (finishEvent (readPhaseEnd t.slot (endOf c) (freeSlot t.slot (beginEvent s))))
  | _ => .next (finishEvent (arriveCompletion t c (beginEvent s)))

/-- WRITE_PHASE_COMPLETION (R75): the end of a locked update's write phase. -/
def execWritePhaseCompletion (t : Tag) (c : Completion) (s : State) : Host.Outcome State Fault Refusal :=
  match liveOwner t s with
  | some .writePhase => .next (finishEvent (writePhaseEnd (endOf c) (freeSlot t.slot (beginEvent s))))
  | _ => .next (finishEvent (arriveCompletion t c (beginEvent s)))

/-- LOADER_READ_COMPLETION (R169 to R173): the end of a Setup Loader read. -/
def execLoaderReadCompletion (t : Tag) (c : Completion) (s : State) : Host.Outcome State Fault Refusal :=
  match liveOwner t s with
  | some .loader => .next (finishEvent (loaderEnd (endOf c) (freeSlot t.slot (beginEvent s))))
  | _ => .next (finishEvent (arriveCompletion t c (beginEvent s)))

/-- STALE_COMPLETION (R87): a completion whose tag names no live operation is discarded, and may unblock its slot. -/
def execStaleCompletion (t : Tag) (c : Completion) (s : State) : Host.Outcome State Fault Refusal :=
  match liveOwner t s with
  | none => .next (finishEvent (discardCompletion t (beginEvent s)))
  | some _ => .next (finishEvent (arriveCompletion t c (beginEvent s)))

/-- DISCARDED_OPERATION_END (R66, R89): the slot is freed and the data or error is dropped. -/
def execDiscardedOperationEnd (t : Tag) (c : Completion) (s : State) : Host.Outcome State Fault Refusal :=
  match liveOwner t s with
  | some .discarded => .next (finishEvent (freeSlot t.slot (beginEvent s)))
  | _ => .next (finishEvent (arriveCompletion t c (beginEvent s)))

/-- DOWNSTREAM_TIMEOUT (R88): the operation is abandoned, its generation becomes stale, and Timeout goes to its owner. -/
def execDownstreamTimeout (t : Tag) (s : State) : Host.Outcome State Fault Refusal :=
  .next (finishEvent (takeTimeout t (beginEvent s)))

end Sys2Proof.Machine
end

