-- ==== Sys2Proof/Machine/Control.lean ====
section
/-! DEFINITION. The meanings of the hold expiry, of the RELOAD edge and the drain's end, and of the resets. -/

namespace Sys2Proof.Machine

/-- HOLD_EXPIRY (R34, R26): an expiry of a claim's hold timer. -/
def execHoldExpiry (c : Ix4) (stamp : BitVec 8) (s : State) : Host.Outcome State Fault Refusal :=
  .next (takeHoldExpiry c stamp (beginEvent s))

/-- A rising edge on RELOAD, by the mode (R174): drain start in Serving; the latch is set in Draining and Loading; not
taken while RESET is asserted. -/
def takeReloadEdge (s : State) : State :=
  if s.resetLine then s
  else
    match s.mode with
    | .serving => drainStart s
    | .draining => { s with reloadLatch := true }
    | .loading => { s with reloadLatch := true }

/-- RELOAD_EDGE (R174, R175): with no work in hand the drain ends in the same event (R176). -/
def execReloadEdge (s : State) : Host.Outcome State Fault Refusal :=
  .next (finishEvent (takeReloadEdge (beginEvent s)))

/-- DRAIN_COMPLETION (R176): Device Control's test. Every event that can make the condition true makes the test itself
(DEDUCED, log entry 6). -/
def execDrainCompletion (s : State) : Host.Outcome State Fault Refusal :=
  .next (drainTest (beginEvent s))

/-- Every block at its reset value (R167); the input lines, the requests on the links and the model's own fields as they
stand. -/
def heldInReset (s : State) : State :=
  { State.reset with
    links := s.links
    presetLines := s.presetLines
    straps := s.straps
    nextSerial := s.nextSerial
    freeCount := s.freeCount
    pending := s.pending }

/-- RESET_ASSERT (R167): all work is abandoned without response, and every block holds its reset value. -/
def execResetAssert (s : State) : Host.Outcome State Fault Refusal :=
  .next (heldInReset s)

/-- A port at the release of RESET: in Reset if its PRESETp is asserted, Idle otherwise (R131). -/
def portAtRelease (s : State) (p : Port) : PortState :=
  if s.presetLines.get p then .reset else .idle

/-- The release of RESET (R131, R167): the device stays in Loading and the loader begins a new load. -/
def releaseReset (s : State) : State :=
  startLoading
    { heldInReset s with
      resetLine := false
      ports :=
        ⟨portAtRelease s .u0, portAtRelease s .u1, portAtRelease s .u2,
          portAtRelease s .u3, portAtRelease s .u4, portAtRelease s .u5⟩ }

/-- RESET_RELEASE (R167). A RESET that is not asserted has no release (DESIGN CHOICE, log entry 13). -/
def execResetRelease (s : State) : Host.Outcome State Fault Refusal :=
  if s.resetLine then .next (releaseReset s) else .next (beginEvent s)

/-- Port p's issued fills and pass read become discarded operations (R65, R100). -/
def Slot.discardFor (p : Port) (sl : Slot) : Slot :=
  { sl with occupant := sl.occupant.map fun o =>
      match o.owner with
      | .fill q _ => if q = p then { o with owner := .discarded } else o
      | .pass q => if q = p then { o with owner := .discarded } else o
      | _ => o }

/-- What the assertion of PRESETp does to port p and to what it owns elsewhere (R4, R46, R65, R100, R127). -/
def resetPort (p : Port) (s : State) : State :=
  clearClaim p
    { (s.setPort p .reset).setLineSet p LineSet.allEmpty with
      presetLines := s.presetLines.set p true
      waiting := s.waiting.filter fun q => decide (q ≠ p)
      slots := s.slots.map (Slot.discardFor p) }

/-- The assertion of PRESETp: a pass of the space arbiter follows when p was the first member of the waiting list (R4,
R7). -/
def assertPreset (p : Port) (s : State) : State :=
  if s.waiting.head? = some p then spacePass (resetPort p s) else resetPort p s

/-- PRESET_ASSERT (R127). The master keeps or withdraws a request on the port's link (R116). A line asserted already has no assertion; while RESET is asserted the line alone changes (R131;
DESIGN CHOICE, log entry 13). -/
def execPresetAssert (p : Port) (s : State) : Host.Outcome State Fault Refusal :=
  if s.presetLines.get p then .next (beginEvent s)
  else if s.resetLine then .next { beginEvent s with presetLines := s.presetLines.set p true }
  else .next (finishEvent (assertPreset p (keepOrWithdraw p (beginEvent s))))

/-- The release of PRESETp: a port in Reset becomes Idle (R130). -/
def releasePreset (p : Port) (s : State) : State :=
  if s.ports.get p = .reset then
    { s.setPort p .idle with presetLines := s.presetLines.set p false }
  else { s with presetLines := s.presetLines.set p false }

/-- PRESET_RELEASE (R130): the port accepts a presented request in the same event if the device is Serving. A line not
asserted has no release. -/
def execPresetRelease (p : Port) (s : State) : Host.Outcome State Fault Refusal :=
  if s.presetLines.get p then .next (finishEvent (releasePreset p (beginEvent s))) else .next (beginEvent s)

end Sys2Proof.Machine
end

