-- ==== Sys2Proof/Machine/Requests.lean ====
section
/-! DEFINITION. The meanings of the nine requests on a port link. -/

namespace Sys2Proof.Machine

/-- CLAIM_READ (R132): presented on port p's link; accepted, it arms a claim and reads as a Plain read would. -/
def execClaimRead (p : Port) (addr : Addr) (size : Size) (s : State) : Host.Outcome State Fault Refusal :=
  .next (present p (readRequest selClaim addr size) (beginEvent s))

/-- CLAIM_WRITE (R135): accepted, it is decided and admitted with a need of 2, or joins the waiting list. -/
def execClaimWrite (p : Port) (addr : Addr) (size : Size) (data : LineData) (s : State) :
    Host.Outcome State Fault Refusal :=
  .next (present p (writeRequest selClaim addr size data) (beginEvent s))

/-- DIRECT_READ (R138): accepted, it is offered as a pass read. -/
def execDirectRead (p : Port) (addr : Addr) (size : Size) (s : State) : Host.Outcome State Fault Refusal :=
  .next (present p (readRequest selDirect addr size) (beginEvent s))

/-- DIRECT_WRITE (R140): accepted, it is admitted as a settled Store or joins the waiting list. -/
def execDirectWrite (p : Port) (addr : Addr) (size : Size) (data : LineData) (s : State) :
    Host.Outcome State Fault Refusal :=
  .next (present p (writeRequest selDirect addr size data) (beginEvent s))

/-- PLAIN_READ (R142): accepted, it hits, joins or misses in the line set, or is offered as a pass read. -/
def execPlainRead (p : Port) (addr : Addr) (size : Size) (s : State) : Host.Outcome State Fault Refusal :=
  .next (present p (readRequest selPlain addr size) (beginEvent s))

/-- PLAIN_WRITE (R145): accepted, it merges into the tail, is admitted as a Store, or joins the waiting list. -/
def execPlainWrite (p : Port) (addr : Addr) (size : Size) (data : LineData) (s : State) :
    Host.Outcome State Fault Refusal :=
  .next (present p (writeRequest selPlain addr size data) (beginEvent s))

/-- TALLY_READ (R147): accepted, it is admitted as a Count or joins the waiting list. -/
def execTallyRead (p : Port) (addr : Addr) (size : Size) (s : State) : Host.Outcome State Fault Refusal :=
  .next (present p (readRequest selTally addr size) (beginEvent s))

/-- TALLY_WRITE (R149): accepted, it is admitted as an Add of its signed operand or joins the waiting list. -/
def execTallyWrite (p : Port) (addr : Addr) (size : Size) (data : LineData) (s : State) :
    Host.Outcome State Fault Refusal :=
  .next (present p (writeRequest selTally addr size data) (beginEvent s))

/-- VOID_VIEW_REQUEST (R103, R108): accepted, it is refused VoidView. The selector on the link decides; one below 4 is
no void selector and the row does not name it (DEDUCED, log entry 7). -/
def execVoidViewRequest (p : Port) (sel : BitVec 4) (op : Operation) (addr : Addr) (size : Size) (data : LineData)
    (s : State) : Host.Outcome State Fault Refusal :=
  .next (present p ⟨op, upAddrOf sel addr, size, data⟩ (beginEvent s))

end Sys2Proof.Machine
end

