-- ==== Sys2Proof/Machine/Dispatch.lean ====
section
/-! DEFINITION. The effect of each command: one arm for each constructor of Instr. -/

namespace Sys2Proof.Machine

def exec (i : Instr) (s : State) : Host.Outcome State Fault Refusal :=
  match i with
  | .claimRead p addr size => Sys2Proof.Machine.execClaimRead p addr size s
  | .claimWrite p addr size data => Sys2Proof.Machine.execClaimWrite p addr size data s
  | .directRead p addr size => Sys2Proof.Machine.execDirectRead p addr size s
  | .directWrite p addr size data => Sys2Proof.Machine.execDirectWrite p addr size data s
  | .plainRead p addr size => Sys2Proof.Machine.execPlainRead p addr size s
  | .plainWrite p addr size data => Sys2Proof.Machine.execPlainWrite p addr size data s
  | .tallyRead p addr size => Sys2Proof.Machine.execTallyRead p addr size s
  | .tallyWrite p addr size data => Sys2Proof.Machine.execTallyWrite p addr size data s
  | .voidViewRequest p sel op addr size data => Sys2Proof.Machine.execVoidViewRequest p sel op addr size data s
  | .spaceArbiterPass => Sys2Proof.Machine.execSpaceArbiterPass s
  | .grant => Sys2Proof.Machine.execGrant s
  | .fillCompletion t c => Sys2Proof.Machine.execFillCompletion t c s
  | .passReadCompletion t c => Sys2Proof.Machine.execPassReadCompletion t c s
  | .storeCompletion t c => Sys2Proof.Machine.execStoreCompletion t c s
  | .commitCompletion t c => Sys2Proof.Machine.execCommitCompletion t c s
  | .outcomeCompletion t c => Sys2Proof.Machine.execOutcomeCompletion t c s
  | .readPhaseCompletion t c => Sys2Proof.Machine.execReadPhaseCompletion t c s
  | .writePhaseCompletion t c => Sys2Proof.Machine.execWritePhaseCompletion t c s
  | .loaderReadCompletion t c => Sys2Proof.Machine.execLoaderReadCompletion t c s
  | .staleCompletion t c => Sys2Proof.Machine.execStaleCompletion t c s
  | .discardedOperationEnd t c => Sys2Proof.Machine.execDiscardedOperationEnd t c s
  | .downstreamTimeout t => Sys2Proof.Machine.execDownstreamTimeout t s
  | .holdExpiry c stamp => Sys2Proof.Machine.execHoldExpiry c stamp s
  | .reloadEdge => Sys2Proof.Machine.execReloadEdge s
  | .drainCompletion => Sys2Proof.Machine.execDrainCompletion s
  | .resetAssert => Sys2Proof.Machine.execResetAssert s
  | .resetRelease => Sys2Proof.Machine.execResetRelease s
  | .presetAssert p => Sys2Proof.Machine.execPresetAssert p s
  | .presetRelease p => Sys2Proof.Machine.execPresetRelease p s

end Sys2Proof.Machine
end

