-- ==== Sys2Proof/Safety.lean ====
section
/-! DEFINITION. The laws the manual says hold at every moment, in the terms the statements use. -/

namespace Sys2Proof.Safety

open Sys2Proof.Machine

/-- R3: the queue holds at most 16 entries, and at most 14 of them are of kinds other than FaultPost. -/
def RoomLaw (s : State) : Prop :=
  occupancy s ≤ 16 ∧ nonFaultPosts s ≤ 14

/-- The port is in SpaceWait. -/
def InSpaceWait (x : PortState) : Prop :=
  match x with
  | .spaceWait _ _ => True
  | _ => False

/-- Every request that waits in SpaceWait is one that writes memory (R5, R119). -/
def SpaceWaitsWrite (x : PortState) : Prop :=
  match x with
  | .spaceWait r _ => r.usesQueue = true
  | _ => True

/-- R4, R119: the waiting list holds the ports in SpaceWait, each once. -/
def WaitingLaw (s : State) : Prop :=
  s.waiting.Nodup
    ∧ (∀ p, p ∈ s.waiting ↔ InSpaceWait (s.ports.get p))
    ∧ ∀ p, SpaceWaitsWrite (s.ports.get p)

/-- The entry is an Outcome entry of a port. -/
def isOutcomeOf (p : Port) (e : Entry) : Bool :=
  match e.body with
  | .outcome _ => decide (e.port = p)
  | _ => false

/-- R9: every Commit entry is immediately followed by the Outcome entry of the same port. -/
def commitsPaired : List Entry → Bool
  | [] => true
  | e :: rest =>
    (match e.body with
      | .commit _ _ _ => (rest.head?.map (isOutcomeOf e.port)).getD false
      | _ => true) && commitsPaired rest

/-- R25, R27: a port's claim status is Held exactly when one Claim Table entry names that port as owner, and that entry
is the one its status names. -/
def ClaimLaw (s : State) : Prop :=
  (∀ c cl, s.claimTable.get c = some cl → s.claimStatus.get cl.owner = .held c)
    ∧ ∀ p c, s.claimStatus.get p = .held c → ∃ cl, s.claimTable.get c = some cl ∧ cl.owner = p

/-- R44: while the device is Draining or Loading, the Claim Table is empty. -/
def NoClaimOutsideServing (s : State) : Prop :=
  s.mode ≠ .serving → ∀ c, s.claimTable.get c = none

/-- R51: no line set holds two non-Empty entries with the same line address. -/
def LinesDistinct (ls : LineSet) : Prop :=
  ∀ e e' l, (ls.entries.get e).line? = some l → (ls.entries.get e').line? = some l → e = e'

/-- R52: the recency order lists the Valid and Prefetched entries, each once. -/
def RecencyExact (ls : LineSet) : Prop :=
  ls.order.Nodup ∧ ∀ e, e ∈ ls.order ↔ (ls.entries.get e).dataLine?.isSome = true

/-- R51 and R52, of every line set. -/
def LineSetLaw (s : State) : Prop :=
  ∀ p, LinesDistinct (s.lineSets.get p) ∧ RecencyExact (s.lineSets.get p)

/-- The line of an entry that may hold, or may come to hold without a new fill, the line as the queue's entries have not
changed it: Valid, Prefetched, an issued fill not overtaken, and a waiting prefetch (R57, R60, R64). -/
def coherentLine? : LineEntry → Option Addr
  | .empty => none
  | .valid l _ => some l
  | .prefetched l _ => some l
  | .filling l f =>
    if f.issued then (if f.overtaken then none else some l)
    else
      match f.cls with
      | .prefetch => some l
      | .demand => none

/-- R60: no line set entry is Valid or Prefetched on a line while the Write Queue holds an entry on that line; with it, what
R57 and R64 say of issued fills and waiting prefetches. -/
def CoherenceLaw (s : State) : Prop :=
  ∀ p e l, coherentLine? ((s.lineSets.get p).entries.get e) = some l → queueHolds l s = false

/-- The operation in a slot, if any, belongs to the Write Queue. -/
def slotOfQueue (sl : Slot) : Bool :=
  match sl.occupant with
  | some o => o.owner.ofQueue
  | none => false

/-- R85, R97: at most one operation in flight belongs to the Write Queue. -/
def OneQueueOperation (s : State) : Prop :=
  ∀ i j, slotOfQueue (s.slots.get i) = true → slotOfQueue (s.slots.get j) = true → i = j

/-- R12, R97: the operation of the queue in flight is the issued head's, on the head's line. -/
def QueueOperationIsHeads (s : State) : Prop :=
  ∀ i o, (s.slots.get i).occupant = some o → o.owner.ofQueue = true →
    ∃ e, s.queue.head? = some e ∧ e.issued = true ∧ memRequestLine o.req = e.line

/-- R92: no write or locked update to a line is in flight downstream while a read of that line is in flight downstream. -/
def LinesApart (s : State) : Prop :=
  ∀ i j o o', (s.slots.get i).occupant = some o → (s.slots.get j).occupant = some o' →
    o.owner.ofQueue = true → o'.owner.countsAsRead = true → memRequestLine o.req ≠ memRequestLine o'.req

/-- R50: the line of a non-Empty entry is a line address. -/
def LinesAligned (s : State) : Prop :=
  ∀ p e l, ((s.lineSets.get p).entries.get e).line? = some l → lineOf l = l

/-- R92 with what keeps it: line addresses, the law of R60, the single operation of the queue, and that it is the head's. -/
def ReadHoldLaw (s : State) : Prop :=
  LinesAligned s ∧ CoherenceLaw s ∧ OneQueueOperation s ∧ QueueOperationIsHeads s ∧ LinesApart s

/-- R86: the generation of an operation in flight is not among the stale generations of its slot. -/
def LiveTagsNotStale (s : State) : Prop :=
  ∀ i o, (s.slots.get i).occupant = some o → (s.slots.get i).stale.get o.gen = false

/-- R98, R164, R169: outside Loading the loader neither offers a read nor has one in flight, it has at most one in flight,
and it offers none while one is in flight. -/
def LoaderLaw (s : State) : Prop :=
  (s.mode ≠ .loading →
    s.loader.offered = false ∧ ∀ i o, (s.slots.get i).occupant = some o → o.owner ≠ .loader)
    ∧ (∀ i j o o', (s.slots.get i).occupant = some o → (s.slots.get j).occupant = some o' →
      o.owner = .loader → o'.owner = .loader → i = j)
    ∧ (s.loader.offered = true → ∀ i o, (s.slots.get i).occupant = some o → o.owner ≠ .loader)

/-- R119, R129, R131: while RESET is released, a port is in Reset exactly while its PRESETp is asserted. -/
def PresetLaw (s : State) : Prop :=
  s.resetLine = false → ∀ p, s.ports.get p = .reset ↔ s.presetLines.get p = true

/-- The device serves and no link holds a request: the end of an event has nothing to accept and no drain to end. -/
def Quiet (s : State) : Prop :=
  s.mode = .serving ∧ ∀ p, s.links.get p = none

/-- No room is wanted: no fault is staged and no port waits, so a pass of the space arbiter has nothing to admit (R7). -/
def NothingWaits (s : State) : Prop :=
  s.waiting = [] ∧ ∀ p, s.staging.get p = none

/-- Port p is Idle in Serving with PRESETp released and nothing held on its link: it accepts a request in the event of its
arrival (R120). -/
def Accepting (p : Port) (s : State) : Prop :=
  s.ports.get p = .idle ∧ s.mode = .serving ∧ s.presetLines.get p = false ∧ s.links.get p = none

/-- Port p can accept the request its link holds: Idle in Serving with PRESETp released (R120). -/
def ReadyToAccept (p : Port) (s : State) : Prop :=
  s.links.get p ≠ none ∧ s.ports.get p = .idle ∧ s.mode = .serving ∧ s.presetLines.get p = false

/-- No work is in hand: no port holds a request, the queue and every staging are empty, and no operation is in flight (R176). -/
def NothingInHand (s : State) : Prop :=
  (∀ p, s.ports.get p = .idle ∨ s.ports.get p = .reset) ∧ s.queue = [] ∧ (∀ p, s.staging.get p = none)
    ∧ ∀ i, (s.slots.get i).occupant = none

/-- The port and the request of the nine commands that present a request (R116). -/
def requestOf : Instr → Option (Port × Request)
  | .claimRead p addr size => some (p, readRequest selClaim addr size)
  | .claimWrite p addr size data => some (p, writeRequest selClaim addr size data)
  | .directRead p addr size => some (p, readRequest selDirect addr size)
  | .directWrite p addr size data => some (p, writeRequest selDirect addr size data)
  | .plainRead p addr size => some (p, readRequest selPlain addr size)
  | .plainWrite p addr size data => some (p, writeRequest selPlain addr size data)
  | .tallyRead p addr size => some (p, readRequest selTally addr size)
  | .tallyWrite p addr size data => some (p, writeRequest selTally addr size data)
  | .voidViewRequest p sel op addr size data => some (p, ⟨op, upAddrOf sel addr, size, data⟩)
  | .spaceArbiterPass => none
  | .grant => none
  | .fillCompletion _ _ => none
  | .passReadCompletion _ _ => none
  | .storeCompletion _ _ => none
  | .commitCompletion _ _ => none
  | .outcomeCompletion _ _ => none
  | .readPhaseCompletion _ _ => none
  | .writePhaseCompletion _ _ => none
  | .loaderReadCompletion _ _ => none
  | .staleCompletion _ _ => none
  | .discardedOperationEnd _ _ => none
  | .downstreamTimeout _ => none
  | .holdExpiry _ _ => none
  | .reloadEdge => none
  | .drainCompletion => none
  | .resetAssert => none
  | .resetRelease => none
  | .presetAssert _ => none
  | .presetRelease _ => none

/-- The tag names a live operation with this owner. -/
def LiveOwner (t : Tag) (owner : Owner) (s : State) : Prop :=
  ∃ o, liveOp t s = some o ∧ o.owner = owner

end Sys2Proof.Safety
end

