-- ==== Sys2Proof/Certificates/Slice0/Obligations.lean ====
section
/-! DEFINITION. The statements for the provers. Each says in its docstring which sentence of the manual it formalises. -/

open Sys2Proof Sys2Proof.Machine Sys2Proof.Safety

/-! ### Steps and resets -/

/-- A step takes the command at the front of the queue and runs exec on it with the queue's rest. The one queue of commands is
the model's (DESIGN CHOICE, log entry 1): the manual tells of events, each at the block that owns its state, and orders them
nowhere. -/
def Obligations.StepRunsFrontCommand : Prop :=
  ∀ (c : Instr) (s : State), step { s with pending := c :: s.pending } = exec c s

/-- The step on an empty command queue is the model's choice (log entry 5): with no expiry due, one boundary passes and every
running timer counts it, and nothing else changes (R33, R88); with exactly one expiry due, it is taken as the command of its
row takes it (R34, R88). -/
def Obligations.EmptyQueueCountsTime : Prop :=
  ∀ s : State, s.pending = [] →
    ((∀ c cl, s.claimTable.get c = some cl → cl.timer ≠ some 0) →
      (∀ i o, (s.slots.get i).occupant = some o → o.timer ≠ 0) →
      ∃ t, step s = .next t
        ∧ (∀ c, t.claimTable.get c =
          (s.claimTable.get c).map fun cl => { cl with timer := cl.timer.map fun n => n - 1 })
        ∧ (∀ i, t.slots.get i =
          { s.slots.get i with
            occupant := (s.slots.get i).occupant.map fun o => { o with timer := o.timer - 1 } })
        ∧ t = { s with outs := [], claimTable := t.claimTable, slots := t.slots })
    ∧ (∀ c cl, s.claimTable.get c = some cl → cl.timer = some 0 →
      (∀ c' cl', s.claimTable.get c' = some cl' → cl'.timer = some 0 → c' = c) →
      (∀ i o, (s.slots.get i).occupant = some o → o.timer ≠ 0) →
      step s = exec (.holdExpiry c cl.order) s)
    ∧ (∀ i o, (s.slots.get i).occupant = some o → o.timer = 0 →
      (∀ j o', (s.slots.get j).occupant = some o' → o'.timer = 0 → j = i) →
      (∀ c cl, s.claimTable.get c = some cl → cl.timer ≠ some 0) →
      step s = exec (.downstreamTimeout ⟨i, o.gen⟩) s)

/-- What ends every event (R120, R173, R176). Nothing changes while the device serves and no link holds a request; the removal
of the queue head then leaves the rest of the queue and nothing else changed, when no fault is staged and no port waits (R7,
R18). In Serving, every port that can accept the request its link holds accepts it, each once and one after another, in an order
the world gives (R120; a free value, log entry 4): so too at a load completion at which several links hold requests, which are
checked against the table the load installed (R173). In Draining the event ends with the test that DRAIN_COMPLETION makes
(R176), and in Loading nothing follows. An acceptance at the end of an event does what the request's command does at an
accepting port. -/
def Obligations.EventEndsQuietly : Prop :=
  (∀ s : State, Quiet s →
    finishEvent s = s
    ∧ (NothingWaits s → finishEvent (removeHead s) = { s with queue := s.queue.tail }))
  ∧ (∀ s : State, s.mode = .serving →
    ∃ ps : List Port, ps.Nodup ∧ (∀ p, p ∈ ps ↔ ReadyToAccept p s)
      ∧ finishEvent s =
        ps.foldl
          (fun t p =>
            match s.links.get p with
            | some r => accept p r { t with links := t.links.set p none }
            | none => t)
          { s with freeCount := if ps.length ≤ 1 then s.freeCount else s.freeCount + 1 })
  ∧ (∀ s : State,
    (s.mode = .draining → exec .drainCompletion s = .next (finishEvent { s with outs := [] }))
    ∧ (s.mode = .loading → finishEvent s = s))
  ∧ ∀ (c : Instr) (p : Port) (r : Request) (s : State), requestOf c = some (p, r) →
    s.ports.get p = .idle → s.mode = .serving → s.presetLines.get p = false →
    ∃ t, exec c s = .next t
      ∧ accept p r { s with links := s.links.set p none } = { t with outs := s.outs ++ t.outs }

/-- The values while RESET is asserted (R21, R47, R50, R69, R85, R101, R104, R118, R154, R163, R164, R165), for each port and each
place of a table; a record with one value for each of them, set at one, reads the new value there and the old ones elsewhere. -/
def Obligations.ResetStateValues : Prop :=
  (∀ p, State.reset.ports.get p = .idle)
    ∧ (∀ p, State.reset.lineSets.get p = LineSet.allEmpty)
    ∧ State.reset.queue = [] ∧ State.reset.waiting = []
    ∧ (∀ c, State.reset.claimTable.get c = none)
    ∧ (∀ p, State.reset.claimStatus.get p = .none)
    ∧ (∀ p, State.reset.writeCounter.get p = 0)
    ∧ State.reset.armingCount = 0
    ∧ State.reset.engine = .idle
    ∧ (∀ i, State.reset.slots.get i = ⟨none, .i0, Quad.const false⟩)
    ∧ State.reset.demandPtr = .u5 ∧ State.reset.prefetchPtr = .u5
    ∧ (∀ p, State.reset.staging.get p = none)
    ∧ State.reset.notifyMark = none ∧ State.reset.recordLost = false
    ∧ State.reset.mode = .loading ∧ State.reset.loader.phase = .ended
    ∧ State.reset.config = .fallback ∧ State.reset.reloadLatch = false
    ∧ windowTable State.reset.config = fallbackTable
    ∧ tickExponentOf State.reset = 10 ∧ timeoutOf State.reset = 1024
    ∧ claimHoldOf State.reset.config = none ∧ recordBaseOf State.reset.config = none
    ∧ setupOK State.reset = false ∧ alertLevel State.reset = false
    ∧ (∀ (α : Type) (v : PerPort α) (p q : Port) (x : α), (v.set p x).get q = if q = p then x else v.get q)
    ∧ ∀ (α : Type) (v : Quad α) (i j : Ix4) (x : α), (v.set i x).get j = if j = i then x else v.get j

/-- RESET_ASSERT puts every block at its reset value whatever it held, with no response given, and leaves the requests on the
links (R167, R21, R131); the levels of the input lines and the model's own fields stay (log entries 2, 3 and 8). RESET_RELEASE
starts a Loading: straps sampled, header read offered at s × 0x40_0000, ports whose PRESETp is asserted in Reset and the others
Idle (R131, R167, R168). -/
def Obligations.ResetAbandonsEverythingThenLoads : Prop :=
  ∀ s : State,
    exec .resetAssert s =
      .next
        { State.reset with
          links := s.links, presetLines := s.presetLines, straps := s.straps
          nextSerial := s.nextSerial, freeCount := s.freeCount, pending := s.pending }
    ∧ (s.resetLine = true →
      ∃ t, exec .resetRelease s = .next t
        ∧ t.loader = ⟨.header, true, BitVec.ofNat 28 (0x400000 * t.straps.toNat), []⟩
        ∧ (∀ p, t.ports.get p = if s.presetLines.get p then .reset else .idle)
        ∧ t =
          { State.reset with
            resetLine := false, loader := t.loader, ports := t.ports
            straps := Config.strapLevels s.freeCount, freeCount := s.freeCount + 1
            links := s.links, presetLines := s.presetLines, nextSerial := s.nextSerial, pending := s.pending })

/-! ### Acceptance and the access checks -/

/-- A request refused by the checks is answered Refused with its reason at its acceptance, and nothing else of the part changes
(R109): wherever the acceptance takes place, and for all nine commands that present a request. Selectors 4 to 15 are refused
VoidView whatever the address, size or port (R103, R108). -/
def Obligations.RefusalChangesNothing : Prop :=
  (∀ (p : Port) (r : Request) (s : State) (reason : RefuseReason),
    accessCheck (windowTable s.config) p r = .refuse reason →
    accept p r s = { s with outs := s.outs ++ [.response p (.refused reason)] }
    ∧ ∀ c, requestOf c = some (p, r) → Accepting p s →
      exec c s = .next { s with outs := [.response p (.refused reason)] })
  ∧ ∀ (p : Port) (sel : BitVec 4) (op : Operation) (a : Addr) (size : Size) (d : LineData) (s : State),
    4 ≤ sel.toNat → Accepting p s →
    exec (.voidViewRequest p sel op a size d) s = .next { s with outs := [.response p (.refused .voidView)] }

/-- The checks of R108 in their order, on the view selector (bits 31 to 28) and the memory address (bits 27 to 0) of the request,
with the rights of R107: each reason exactly when its check fails and no earlier one does, and a verdict of the window and its
attributes when none fails. -/
def Obligations.AccessChecksInOrder : Prop :=
  ∀ (table : List Window) (p : Port) (r : Request) (sel : Nat) (a : Addr),
    sel = (r.upAddr.extractLsb' 28 4).toNat → a = r.upAddr.extractLsb' 0 28 →
    if 4 ≤ sel then accessCheck table p r = .refuse .voidView
    else if ¬ r.size.bytes ∣ a.toNat then accessCheck table p r = .refuse .misaligned
    else if sel = 3 ∧ r.size.bytes ≠ 4 then accessCheck table p r = .refuse .badSize
    else
      match windowOf table a with
      | none => accessCheck table p r = .refuse .unmapped
      | some (i, w) =>
        if (sel = 2 ∧ w.attrs.claimOK = false) ∨ (sel = 3 ∧ w.attrs.tallyOK = false) then
          accessCheck table p r = .refuse .viewDenied
        else if r.op = .read ∧ w.readPorts.get p = false then accessCheck table p r = .refuse .readDenied
        else if (r.op = .write ∨ sel = 3) ∧ w.writePorts.get p = false then
          accessCheck table p r = .refuse .writeDenied
        else accessCheck table p r = .pass ⟨i, w.attrs⟩

/-- The window of an address is the lowest-numbered window that contains it, from base × 4096 to limit × 4096 + 4095; an
address that no window contains has none; and every address of a line has the window of its line (R105). -/
def Obligations.WindowIsLowestThatContains : Prop :=
  ∀ (table : List Window) (a : Addr),
    (∀ i w, windowOf table a = some (i, w) ↔
      (table[i]? = some w ∧ (w.base.toNat * 4096 ≤ a.toNat ∧ a.toNat ≤ w.limit.toNat * 4096 + 4095)
        ∧ ∀ j w', j < i → table[j]? = some w' →
          ¬ (w'.base.toNat * 4096 ≤ a.toNat ∧ a.toNat ≤ w'.limit.toNat * 4096 + 4095)))
    ∧ (windowOf table a = none ↔
      ∀ w ∈ table, ¬ (w.base.toNat * 4096 ≤ a.toNat ∧ a.toNat ≤ w.limit.toNat * 4096 + 4095))
    ∧ windowOf table a = windowOf table (lineOf a)

/-- While a condition of R120 fails, acceptance is withheld and the request presented stays on the link (all nine commands that
present a request). What the link held before is replaced, for a master presents again only after it has withdrawn that
request (R116; DEDUCED, log entry 15): the command acts as if the link had been empty. A held request stays on its link through
every command that presents nothing on that link, but for its acceptance, with the device Serving and PRESETp released, and for
PRESET_ASSERT of its port, across which keeping it is the master's matter (R116). The request each of the nine commands presents
carries its view's selector above the memory address (R102, R103). -/
def Obligations.WithheldRequestStaysOnLink : Prop :=
  (∀ (c : Instr) (p : Port) (r : Request) (s : State), requestOf c = some (p, r) →
    ((s.ports.get p ≠ .idle ∨ s.mode ≠ .serving ∨ s.presetLines.get p = true) →
      exec c s = .next { s with outs := [], links := s.links.set p (some r) })
    ∧ exec c s = exec c { s with links := s.links.set p none })
  ∧ (∀ (c : Instr) (p : Port) (r : Request) (s t : State), s.links.get p = some r →
    (∀ r', requestOf c ≠ some (p, r')) → c ≠ .presetAssert p → exec c s = .next t →
    t.links.get p = some r ∨ (t.links.get p = none ∧ t.mode = .serving ∧ t.presetLines.get p = false))
  ∧ ∀ (p : Port) (sel : BitVec 4) (op : Operation) (a : Addr) (size : Size) (d : LineData),
    requestOf (.plainRead p a size) = some (p, ⟨.read, 0#4 ++ a, size, 0⟩)
    ∧ requestOf (.plainWrite p a size d) = some (p, ⟨.write, 0#4 ++ a, size, d⟩)
    ∧ requestOf (.directRead p a size) = some (p, ⟨.read, 1#4 ++ a, size, 0⟩)
    ∧ requestOf (.directWrite p a size d) = some (p, ⟨.write, 1#4 ++ a, size, d⟩)
    ∧ requestOf (.claimRead p a size) = some (p, ⟨.read, 2#4 ++ a, size, 0⟩)
    ∧ requestOf (.claimWrite p a size d) = some (p, ⟨.write, 2#4 ++ a, size, d⟩)
    ∧ requestOf (.tallyRead p a size) = some (p, ⟨.read, 3#4 ++ a, size, 0⟩)
    ∧ requestOf (.tallyWrite p a size d) = some (p, ⟨.write, 3#4 ++ a, size, d⟩)
    ∧ requestOf (.voidViewRequest p sel op a size d) = some (p, ⟨op, sel ++ a, size, d⟩)

/-! ### Reads -/

/-- PLAIN_READ in a window with Buffered: a hit is answered Done at acceptance and becomes Valid and most recent, and a prefetch
of the next line may follow, never without Stream (R62; prefetchAfter, stated by PrefetchFollowsServedRead); a join makes the
fill a demand fill, with refill when it is issued and overtaken; a miss takes the victim. Nothing else changes (R53 to R55,
R142). The lookup finds the entry that is not Empty on the line; the victim is the lowest-numbered Empty entry, otherwise the
least recent one (R53, R55). -/
def Obligations.PlainReadHitsJoinsOrMisses : Prop :=
  (∀ (p : Port) (a : Addr) (size : Size) (s : State) (v : Verdict), Accepting p s →
    accessCheck (windowTable s.config) p (readRequest selPlain a size) = .pass v →
    v.attrs.buffered = true →
    (∀ e d, (s.lineSets.get p).lookup (lineOf a) = some e →
      ((s.lineSets.get p).entries.get e = .valid (lineOf a) d
        ∨ (s.lineSets.get p).entries.get e = .prefetched (lineOf a) d) →
      ∃ t, exec (.plainRead p a size) s = .next (prefetchAfter p v (lineOf a) t)
        ∧ t =
          { s with
            outs := [.response p (.done (bytesFrom d (offsetOf a) size.bytes))]
            lineSets := s.lineSets.set p
              ⟨(s.lineSets.get p).entries.set e (.valid (lineOf a) d),
                e :: (s.lineSets.get p).order.filter fun x => decide (x ≠ e)⟩ }
        ∧ (v.attrs.stream = false → exec (.plainRead p a size) s = .next t))
    ∧ (∀ e f, (s.lineSets.get p).lookup (lineOf a) = some e →
      (s.lineSets.get p).entries.get e = .filling (lineOf a) f →
      exec (.plainRead p a size) s =
        .next
          { s with
            outs := []
            ports := s.ports.set p (.readWait (readRequest selPlain a size) v (.fill e))
            lineSets := s.lineSets.set p
              ⟨(s.lineSets.get p).entries.set e
                (.filling (lineOf a) ⟨.demand, f.issued, f.overtaken, f.issued && f.overtaken⟩),
                (s.lineSets.get p).order⟩ })
    ∧ ((s.lineSets.get p).lookup (lineOf a) = none →
      exec (.plainRead p a size) s =
        .next
          { s with
            outs := []
            ports := s.ports.set p
              (.readWait (readRequest selPlain a size) v (.fill (s.lineSets.get p).victim))
            lineSets := s.lineSets.set p
              ⟨(s.lineSets.get p).entries.set (s.lineSets.get p).victim
                (.filling (lineOf a) ⟨.demand, false, false, false⟩),
                (s.lineSets.get p).order.filter fun x => decide (x ≠ (s.lineSets.get p).victim)⟩ }))
  ∧ ∀ (ls : LineSet) (line : Addr),
    (ls.lookup line = none ↔ ∀ e d f, ls.entries.get e ≠ .valid line d ∧ ls.entries.get e ≠ .prefetched line d
      ∧ ls.entries.get e ≠ .filling line f)
    ∧ (∀ e, ls.lookup line = some e →
      (∃ d, ls.entries.get e = .valid line d) ∨ (∃ d, ls.entries.get e = .prefetched line d)
        ∨ ∃ f, ls.entries.get e = .filling line f)
    ∧ (∀ e, ls.entries.get e = .empty →
      (∀ e' ∈ Ix4.all.takeWhile fun x => decide (x ≠ e), ls.entries.get e' ≠ .empty) → ls.victim = e)
    ∧ (∀ e front, (∀ e', ls.entries.get e' ≠ .empty) → ls.order = front ++ [e] → ls.victim = e)

/-- A DIRECT_READ whatever its window's attributes, and a PLAIN_READ in a window without Buffered, is offered as a pass read:
the port is in ReadWait on it, and nothing else changes (R90, R138, R142). -/
def Obligations.PassReadsAreOffered : Prop :=
  ∀ (p : Port) (a : Addr) (size : Size) (s : State) (v : Verdict), Accepting p s →
    (accessCheck (windowTable s.config) p (readRequest selDirect a size) = .pass v →
      exec (.directRead p a size) s =
        .next
          { s with
            outs := []
            ports := s.ports.set p (.readWait (readRequest selDirect a size) v (.pass false)) })
    ∧ (accessCheck (windowTable s.config) p (readRequest selPlain a size) = .pass v →
      v.attrs.buffered = false →
      exec (.plainRead p a size) s =
        .next
          { s with
            outs := []
            ports := s.ports.set p (.readWait (readRequest selPlain a size) v (.pass false)) })

/-- CLAIM_READ arms on its line and then reads as a Plain read of the same window: the claim state after it is the arming's, the
port, its line set and the response are those the read gives without an arming, and nothing else changes (R31, R132). The read
of any request, in a window with Buffered: a hit answered Done, a join of the fill, or a miss into the victim (R53 to R55); in a
window without Buffered, a pass read that is offered (R90). -/
def Obligations.ClaimReadArmsAndReads : Prop :=
  (∀ (p : Port) (a : Addr) (size : Size) (s : State) (v : Verdict), Accepting p s →
    accessCheck (windowTable s.config) p (readRequest selClaim a size) = .pass v →
    exec (.claimRead p a size) s =
      .next
        { s with
          ports := (readPath p (readRequest selClaim a size) v { s with outs := [] }).ports
          lineSets := (readPath p (readRequest selClaim a size) v { s with outs := [] }).lineSets
          outs := (readPath p (readRequest selClaim a size) v { s with outs := [] }).outs
          claimTable := (armClaim p (lineOf a) s).claimTable
          claimStatus := (armClaim p (lineOf a) s).claimStatus
          armingCount := (armClaim p (lineOf a) s).armingCount })
  ∧ ∀ (p : Port) (r : Request) (v : Verdict) (s : State) (a l : Addr),
    a = r.upAddr.extractLsb' 0 28 → l = lineOf a →
    (v.attrs.buffered = false →
      readPath p r v s = { s with ports := s.ports.set p (.readWait r v (.pass false)) })
    ∧ (∀ e d, v.attrs.buffered = true → (s.lineSets.get p).lookup l = some e →
      ((s.lineSets.get p).entries.get e = .valid l d ∨ (s.lineSets.get p).entries.get e = .prefetched l d) →
      readPath p r v s =
        prefetchAfter p v l
          { s with
            ports := s.ports.set p .idle
            lineSets := s.lineSets.set p
              ⟨(s.lineSets.get p).entries.set e (.valid l d),
                e :: (s.lineSets.get p).order.filter fun x => decide (x ≠ e)⟩
            outs := s.outs ++ [.response p (.done (bytesFrom d (offsetOf a) r.size.bytes))] })
    ∧ (∀ e f, v.attrs.buffered = true → (s.lineSets.get p).lookup l = some e →
      (s.lineSets.get p).entries.get e = .filling l f →
      readPath p r v s =
        { s with
          ports := s.ports.set p (.readWait r v (.fill e))
          lineSets := s.lineSets.set p
            ⟨(s.lineSets.get p).entries.set e (.filling l ⟨.demand, f.issued, f.overtaken, f.issued && f.overtaken⟩),
              (s.lineSets.get p).order⟩ })
    ∧ (v.attrs.buffered = true → (s.lineSets.get p).lookup l = none →
      readPath p r v s =
        { s with
          ports := s.ports.set p (.readWait r v (.fill (s.lineSets.get p).victim))
          lineSets := s.lineSets.set p
            ⟨(s.lineSets.get p).entries.set (s.lineSets.get p).victim (.filling l ⟨.demand, false, false, false⟩),
              (s.lineSets.get p).order.filter fun x => decide (x ≠ (s.lineSets.get p).victim)⟩ })

/-- Arming by the status of the accepting port (R29, R30, R26): re-arm and move of the entry held, the lowest-numbered free
entry for a port that holds none, Crowded with a full table. -/
def Obligations.ArmingFollowsStatus : Prop :=
  ∀ (p : Port) (line : Addr) (s : State),
    (∀ c, s.claimStatus.get p = .held c →
      armClaim p line s =
        { s with
          claimTable := s.claimTable.set c (some ⟨p, line, claimHoldOf s.config, s.armingCount + 1⟩)
          armingCount := s.armingCount + 1 })
    ∧ (∀ c, (∀ c', s.claimStatus.get p ≠ .held c') → s.claimTable.get c = none →
      (∀ c' ∈ Ix4.all.takeWhile fun x => decide (x ≠ c), s.claimTable.get c' ≠ none) →
      armClaim p line s =
        { s with
          claimTable := s.claimTable.set c (some ⟨p, line, claimHoldOf s.config, s.armingCount + 1⟩)
          claimStatus := s.claimStatus.set p (.held c)
          armingCount := s.armingCount + 1 })
    ∧ ((∀ c', s.claimStatus.get p ≠ .held c') → (∀ c, s.claimTable.get c ≠ none) →
      armClaim p line s = { s with claimStatus := s.claimStatus.set p (.lapsed .crowded line) })

/-- After a read served from the line set a prefetch of the next line is made exactly under the conditions of R62 and R63: the
victim becomes Filling with class prefetch, waiting. -/
def Obligations.PrefetchFollowsServedRead : Prop :=
  ∀ (p : Port) (v : Verdict) (line : Addr) (s : State),
    ((v.attrs.stream = true ∧ line.toNat < 0xFFFFFE0
        ∧ (∃ w, windowOf (windowTable s.config) (line + 32) = some (v.window, w))
        ∧ (s.lineSets.get p).lookup (line + 32) = none
        ∧ (∀ e l f, (s.lineSets.get p).entries.get e = .filling l f → f.cls ≠ .prefetch)
        ∧ s.mode = .serving ∧ (∀ e ∈ s.queue, e.line ≠ line + 32)) →
      prefetchAfter p v line s =
        { s with
          lineSets := s.lineSets.set p
            ⟨(s.lineSets.get p).entries.set (s.lineSets.get p).victim
              (.filling (line + 32) ⟨.prefetch, false, false, false⟩),
              (s.lineSets.get p).order.filter fun x => decide (x ≠ (s.lineSets.get p).victim)⟩ })
    ∧ (¬ (v.attrs.stream = true ∧ line.toNat < 0xFFFFFE0
        ∧ (∃ w, windowOf (windowTable s.config) (line + 32) = some (v.window, w))
        ∧ (s.lineSets.get p).lookup (line + 32) = none
        ∧ (∀ e l f, (s.lineSets.get p).entries.get e = .filling l f → f.cls ≠ .prefetch)
        ∧ s.mode = .serving ∧ (∀ e ∈ s.queue, e.line ≠ line + 32)) →
      prefetchAfter p v line s = s)

/-! ### Writes and admission -/

/-- The admission of a Store made by a posted PLAIN_WRITE that does not merge, for the tail is no posted, unissued Store of the
same port on the same line: answered Done, the entry at the tail with the effects of R10 on its line, the port Idle as before
(R2, R5, R6, R11, R145). -/
def Obligations.PostedPlainWriteIsAdmitted : Prop :=
  ∀ (p : Port) (a : Addr) (size : Size) (d : LineData) (s : State) (v : Verdict), Accepting p s →
    accessCheck (windowTable s.config) p (writeRequest selPlain a size d) = .pass v →
    v.attrs.settled = false →
    (∀ front serial m old, s.queue ≠ front ++ [⟨serial, p, lineOf a, .store m old false, false⟩]) →
    s.waiting = [] → s.queue.length + 1 ≤ 16 → nonFaultPosts s + 1 ≤ 14 →
    exec (.plainWrite p a size d) s =
      .next
        { makeVisible (lineOf a)
            { s with
              queue := s.queue ++ [⟨s.nextSerial, p, lineOf a,
                .store (spanMask (offsetOf a) size.bytes) (placeBytes d (offsetOf a) size.bytes) false, false⟩]
              nextSerial := s.nextSerial + 1 } with
          outs := [.response p (.done [])] }

/-- A posted PLAIN_WRITE merges into a tail that is a posted, unissued Store of the same port on the same line, whatever the
room and the waiting list: its bytes join the tail's mask and replace the data there, with the effects of R10 and the answer
Done (R5, R6, R145). -/
def Obligations.PostedPlainWriteMerges : Prop :=
  ∀ (p : Port) (a : Addr) (size : Size) (d : LineData) (s : State) (v : Verdict)
    (front : List Entry) (serial : Nat) (m : Mask) (old : LineData), Accepting p s →
    accessCheck (windowTable s.config) p (writeRequest selPlain a size d) = .pass v →
    v.attrs.settled = false →
    s.queue = front ++ [⟨serial, p, lineOf a, .store m old false, false⟩] →
    exec (.plainWrite p a size d) s =
      .next
        { makeVisible (lineOf a)
            { s with
              queue := front ++ [⟨serial, p, lineOf a,
                .store (m ||| spanMask (offsetOf a) size.bytes)
                  (mergeBytes (spanMask (offsetOf a) size.bytes)
                    (placeBytes d (offsetOf a) size.bytes) old) false, false⟩] } with
          outs := [.response p (.done [])] }

/-- A settled PLAIN_WRITE and every DIRECT_WRITE is admitted as a settled Store: no response, the port in SettleWait on it
(R2, R5, R11, R140, R145). -/
def Obligations.SettledWritesWaitOnTheirStore : Prop :=
  ∀ (p : Port) (a : Addr) (size : Size) (d : LineData) (s : State) (v : Verdict), Accepting p s →
    s.waiting = [] → s.queue.length + 1 ≤ 16 → nonFaultPosts s + 1 ≤ 14 →
    (accessCheck (windowTable s.config) p (writeRequest selPlain a size d) = .pass v → v.attrs.settled = true →
      exec (.plainWrite p a size d) s =
        .next
          { makeVisible (lineOf a)
              { s with
                queue := s.queue ++ [⟨s.nextSerial, p, lineOf a,
                  .store (spanMask (offsetOf a) size.bytes) (placeBytes d (offsetOf a) size.bytes) true, false⟩]
                nextSerial := s.nextSerial + 1 } with
            ports := s.ports.set p (.settleWait (writeRequest selPlain a size d) v s.nextSerial)
            outs := [] })
    ∧ (accessCheck (windowTable s.config) p (writeRequest selDirect a size d) = .pass v →
      exec (.directWrite p a size d) s =
        .next
          { makeVisible (lineOf a)
              { s with
                queue := s.queue ++ [⟨s.nextSerial, p, lineOf a,
                  .store (spanMask (offsetOf a) size.bytes) (placeBytes d (offsetOf a) size.bytes) true, false⟩]
                nextSerial := s.nextSerial + 1 } with
            ports := s.ports.set p (.settleWait (writeRequest selDirect a size d) v s.nextSerial)
            outs := [] })

/-- A request that writes memory, does not merge (it is no posted Plain write, or the tail is no posted, unissued Store of the
same port on its line), and finds other ports waiting or no room joins the end of the waiting list in SpaceWait; nothing else
changes (R4, R5, R6). Plain, Direct, Claim and Tally writes and Tally reads write memory; a claim write needs room for 2 and any
other for 1; the entries other than FaultPosts are counted one by one (R3). -/
def Obligations.WritesWithoutRoomWait : Prop :=
  (∀ (c : Instr) (p : Port) (r : Request) (s : State) (v : Verdict),
    requestOf c = some (p, r) → r.usesQueue = true → Accepting p s →
    accessCheck (windowTable s.config) p r = .pass v →
    (r.upAddr.extractLsb' 28 4 = 0 → r.op = .write → v.attrs.settled = false →
      ∀ front serial m old,
        s.queue ≠ front ++ [⟨serial, p, lineOf (r.upAddr.extractLsb' 0 28), .store m old false, false⟩]) →
    (s.waiting ≠ [] ∨ 14 < nonFaultPosts s + r.need ∨ 16 < s.queue.length + r.need) →
    exec c s =
      .next { s with outs := [], waiting := s.waiting ++ [p], ports := s.ports.set p (.spaceWait r v) })
  ∧ (∀ (r : Request) (sel : Nat), sel = (r.upAddr.extractLsb' 28 4).toNat →
    (r.usesQueue = true ↔ (sel ≤ 2 ∧ r.op = .write) ∨ sel = 3)
    ∧ r.need = if sel = 2 then 2 else 1)
  ∧ ∀ s : State, nonFaultPosts s = (s.queue.filter fun e => match e.body with
    | .faultPost _ => false
    | _ => true).length

/-- TALLY_WRITE is admitted as an Add of its signed operand, answered Done when posted and waited on when settled;
TALLY_READ is admitted as a Count that the port waits on (R2, R5, R11, R147, R149). -/
def Obligations.TallyRequestsAreAdmitted : Prop :=
  ∀ (p : Port) (a : Addr) (size : Size) (d : LineData) (s : State) (v : Verdict), Accepting p s →
    s.waiting = [] → s.queue.length + 1 ≤ 16 → nonFaultPosts s + 1 ≤ 14 →
    (accessCheck (windowTable s.config) p (writeRequest selTally a size d) = .pass v → v.attrs.settled = false →
      exec (.tallyWrite p a size d) s =
        .next
          { makeVisible (lineOf a)
              { s with
                queue := s.queue ++ [⟨s.nextSerial, p, a, .add (d.extractLsb' 0 32) false, false⟩]
                nextSerial := s.nextSerial + 1 } with
            outs := [.response p (.done [])] })
    ∧ (accessCheck (windowTable s.config) p (writeRequest selTally a size d) = .pass v → v.attrs.settled = true →
      exec (.tallyWrite p a size d) s =
        .next
          { makeVisible (lineOf a)
              { s with
                queue := s.queue ++ [⟨s.nextSerial, p, a, .add (d.extractLsb' 0 32) true, false⟩]
                nextSerial := s.nextSerial + 1 } with
            ports := s.ports.set p (.settleWait (writeRequest selTally a size d) v s.nextSerial)
            outs := [] })
    ∧ (accessCheck (windowTable s.config) p (readRequest selTally a size) = .pass v →
      exec (.tallyRead p a size) s =
        .next
          { makeVisible (lineOf a)
              { s with
                queue := s.queue ++ [⟨s.nextSerial, p, a, .count, false⟩]
                nextSerial := s.nextSerial + 1 } with
            ports := s.ports.set p (.countWait (readRequest selTally a size) v s.nextSerial)
            outs := [] })

/-- CLAIM_WRITE with room for two, in Loaded: decided at its admission and consumed. Committed, it admits a Commit and directly
behind it the Outcome for the port's record; with any other code the Outcome alone; Done at once but for a settled Commit,
which the port waits on (R9, R11, R135, R136). The consumption makes the port's status None, frees the entry it held, if any,
and advances its counter by one, and changes nothing else (R40). -/
def Obligations.ClaimWriteIsDecidedAndAdmitted : Prop :=
  (∀ (p : Port) (a : Addr) (size : Size) (d : LineData) (s : State) (v : Verdict) (b : Setup), Accepting p s →
    accessCheck (windowTable s.config) p (writeRequest selClaim a size d) = .pass v →
    s.config = .loaded b → s.waiting = [] → s.queue.length + 2 ≤ 16 → nonFaultPosts s + 2 ≤ 14 →
    (decideCode s p (lineOf a) = .committed →
      exec (.claimWrite p a size d) s =
        .next
          { admitEntry p (b.recordBase + BitVec.ofNat 28 (32 * p.index))
              (.outcome ⟨s.writeCounter.get p + 1, .committed, size, a⟩)
              (admitEntry p (lineOf a)
                (.commit (spanMask (offsetOf a) size.bytes) (placeBytes d (offsetOf a) size.bytes) v.attrs.settled)
                (consumeClaim p s)) with
            ports :=
              if v.attrs.settled then
                s.ports.set p (.settleWait (writeRequest selClaim a size d) v s.nextSerial)
              else s.ports
            outs := if v.attrs.settled then [] else [.response p (.done [])] })
    ∧ (decideCode s p (lineOf a) ≠ .committed →
      exec (.claimWrite p a size d) s =
        .next
          { admitEntry p (b.recordBase + BitVec.ofNat 28 (32 * p.index))
              (.outcome ⟨s.writeCounter.get p + 1, decideCode s p (lineOf a), size, a⟩)
              (consumeClaim p s) with
            outs := [.response p (.done [])] }))
  ∧ ∀ (p : Port) (s : State),
    (∀ c, s.claimStatus.get p = .held c →
      consumeClaim p s =
        { s with
          claimTable := s.claimTable.set c none
          claimStatus := s.claimStatus.set p .none
          writeCounter := s.writeCounter.set p (s.writeCounter.get p + 1) })
    ∧ ((∀ c, s.claimStatus.get p ≠ .held c) →
      consumeClaim p s =
        { s with
          claimStatus := s.claimStatus.set p .none
          writeCounter := s.writeCounter.set p (s.writeCounter.get p + 1) })

/-- The outcome of a claim write by the port's claim status at the admission (R39). -/
def Obligations.OutcomeFollowsClaimStatus : Prop :=
  ∀ (p : Port) (line : Addr) (s : State),
    (∀ c cl, s.claimStatus.get p = .held c → s.claimTable.get c = some cl →
      decideCode s p line = if cl.line = line then .committed else .notHeld)
    ∧ (∀ l, s.claimStatus.get p = .lapsed .broken l →
      decideCode s p line = if l = line then .broken else .notHeld)
    ∧ (∀ l, s.claimStatus.get p = .lapsed .expired l →
      decideCode s p line = if l = line then .expired else .notHeld)
    ∧ (∀ l, s.claimStatus.get p = .lapsed .crowded l →
      decideCode s p line = if l = line then .crowded else .notHeld)
    ∧ (∀ l, s.claimStatus.get p = .lapsed .dropped l →
      decideCode s p line = if l = line then .dropped else .notHeld)
    ∧ (s.claimStatus.get p = .none → decideCode s p line = .notHeld)

/-- What an admission to a line, or a merge, does to every line set (the table of R60), and that it leaves every other line
alone: the entries that go leave the recency order, and the others keep their relative order in it (R52). -/
def Obligations.AdmissionDropsLineEverywhere : Prop :=
  ∀ (q : Port) (e : Ix4) (line : Addr) (s t : State),
    (t = makeVisible line s ∨ ∃ p target body, line = lineOf target ∧ t = admitEntry p target body s) →
    (∀ l d, (s.lineSets.get q).entries.get e = .valid l d →
      (t.lineSets.get q).entries.get e = if l = line then .empty else .valid l d)
    ∧ (∀ l d, (s.lineSets.get q).entries.get e = .prefetched l d →
      (t.lineSets.get q).entries.get e = if l = line then .empty else .prefetched l d)
    ∧ (∀ l f, (s.lineSets.get q).entries.get e = .filling l f → l = line → f.issued = true →
      (t.lineSets.get q).entries.get e = .filling l { f with overtaken := true })
    ∧ (∀ l f, (s.lineSets.get q).entries.get e = .filling l f → l = line → f.issued = false →
      f.cls = .prefetch → (t.lineSets.get q).entries.get e = .empty)
    ∧ (∀ l f, (s.lineSets.get q).entries.get e = .filling l f → (l ≠ line ∨ (f.issued = false ∧ f.cls = .demand)) →
      (t.lineSets.get q).entries.get e = .filling l f)
    ∧ ((s.lineSets.get q).entries.get e = .empty → (t.lineSets.get q).entries.get e = .empty)
    ∧ (t.lineSets.get q).order =
      (s.lineSets.get q).order.filter fun x =>
        match (s.lineSets.get q).entries.get x with
        | .valid l _ => decide (l ≠ line)
        | .prefetched l _ => decide (l ≠ line)
        | _ => true

/-- An admission to a line, or a merge, breaks every Held claim on the line and touches no other claim, and nothing else but the
line sets changes; an admitted entry stands at the tail, unissued, under the next serial number (R10, R36). -/
def Obligations.AdmissionBreaksClaimsOnItsLine : Prop :=
  (∀ (line : Addr) (s t : State), ClaimLaw s →
    (t = makeVisible line s ∨ ∃ p target body, line = lineOf target ∧ t = admitEntry p target body s) →
    (∀ c, t.claimTable.get c =
      match s.claimTable.get c with
      | some cl => if cl.line = line then none else some cl
      | none => none)
    ∧ (∀ q, t.claimStatus.get q =
      match s.claimStatus.get q with
      | .held c => if (s.claimTable.get c).map Claim.line = some line then .lapsed .broken line else .held c
      | x => x))
  ∧ (∀ (line : Addr) (s : State),
    makeVisible line s =
      { s with
        lineSets := (makeVisible line s).lineSets
        claimTable := (makeVisible line s).claimTable
        claimStatus := (makeVisible line s).claimStatus })
  ∧ ∀ (p : Port) (target : Addr) (body : EntryBody) (s : State),
    admitEntry p target body s =
      { s with
        queue := s.queue ++ [⟨s.nextSerial, p, target, body, false⟩]
        nextSerial := s.nextSerial + 1
        lineSets := (admitEntry p target body s).lineSets
        claimTable := (admitEntry p target body s).claimTable
        claimStatus := (admitEntry p target body s).claimStatus }

/-- The bytes of a write at their positions (R2), and the bytes of a merge: new data replaces old at the mask's positions and
the other bytes stay (R6). The bytes a read returns from a line, in address order (R117). The line of an address is the address
with its low five bits zero, its offset is what those bits hold, an entry's line is its target's (R1), and a size is 1, 2, 4 or
32 bytes (R116). -/
def Obligations.WriteBytesLandAtTheirPositions : Prop :=
  (∀ (a : Addr) (size : Size) (d : LineData) (i : Nat), size.bytes ∣ a.toNat → i < 32 →
    ((spanMask (offsetOf a) size.bytes).getLsbD i = decide (offsetOf a ≤ i ∧ i < offsetOf a + size.bytes))
    ∧ byteAt (placeBytes d (offsetOf a) size.bytes) i =
      if offsetOf a ≤ i ∧ i < offsetOf a + size.bytes then byteAt d (i - offsetOf a) else 0)
  ∧ (∀ (m : Mask) (new old : LineData) (i : Nat), i < 32 →
    byteAt (mergeBytes m new old) i = if m.getLsbD i then byteAt new i else byteAt old i)
  ∧ (∀ (d : LineData) (off n i : Nat),
    byteAt d i = d.extractLsb' (8 * i) 8
    ∧ (bytesFrom d off n).length = n ∧ (i < n → (bytesFrom d off n)[i]? = some (byteAt d (off + i))))
  ∧ (∀ a : Addr, (lineOf a).toNat = a.toNat / 32 * 32 ∧ offsetOf a = a.toNat % 32)
  ∧ (∀ e : Entry, e.line = lineOf e.target)
  ∧ Size.bytes .b1 = 1 ∧ Size.bytes .b2 = 2 ∧ Size.bytes .b4 = 4 ∧ Size.bytes .b32 = 32

/-! ### The space arbiter -/

/-- SPACE_ARBITER_PASS (R7), in Serving and in Draining alike (R23). The staged faults come first, ports ascending: while fewer
than 16 entries stand, the lowest-numbered port with faults staged gives a FaultPost for its record that takes the staging
whole, and the pass goes on from there, the waiting list untouched (R8, R156). With nothing staged, or the queue full, the first
member is admitted while its need fits, as at acceptance but never merged (R124), and the pass goes on with the next; it ends at
a first member whose need does not fit, and the members behind it are not looked at. With 16 entries nothing changes. Two ports
staged and a port waiting, in one pass: both FaultPosts in port order, then the first member. A pass as a command of its own is
the model's reading of the row (log entry 6); the removal of the head makes the same pass (R18). -/
def Obligations.PassAdmitsFaultsAndFirstWaiters : Prop :=
  (∀ s : State,
    exec .spaceArbiterPass s = .next (finishEvent (spacePass { s with outs := [] }))
    ∧ removeHead s = spacePass { s with queue := s.queue.tail })
  ∧ (∀ (p : Port) (f : FaultContent) (s : State) (b : Setup), s.config = .loaded b →
    s.staging.get p = some f → (∀ q, q.index < p.index → s.staging.get q = none) → s.queue.length < 16 →
    spacePass s =
      spacePass
        (admitEntry p (b.recordBase + BitVec.ofNat 28 (32 * p.index)) (.faultPost f)
          { s with staging := s.staging.set p none }))
  ∧ (∀ s : State, (∀ p, s.staging.get p = none) ∨ 16 ≤ s.queue.length →
    (∀ p rest r v, s.waiting = p :: rest → s.ports.get p = .spaceWait r v →
      (nonFaultPosts s + r.need ≤ 14 ∧ s.queue.length + r.need ≤ 16 →
        spacePass s = spacePass (admitRequest p r v { s with waiting := rest })
        ∧ exec .spaceArbiterPass s =
          .next (finishEvent (spacePass (admitRequest p r v { s with outs := [], waiting := rest }))))
      ∧ ((14 < nonFaultPosts s + r.need ∨ 16 < s.queue.length + r.need) →
        spacePass s = s
        ∧ (Quiet s ∨ s.mode = .draining → exec .spaceArbiterPass s = .next { s with outs := [] })))
    ∧ (s.waiting = [] →
      spacePass s = s
      ∧ (Quiet s → exec .spaceArbiterPass s = .next { s with outs := [] })
      ∧ (s.mode = .draining → exec .spaceArbiterPass s = exec .drainCompletion s)))
  ∧ (∀ (p q w : Port) (f g : FaultContent) (rest : List Port) (r : Request) (v : Verdict) (s t : State) (b : Setup),
    s.config = .loaded b → p.index < q.index → s.staging.get p = some f → s.staging.get q = some g →
    (∀ x, x ≠ p → x ≠ q → s.staging.get x = none) → s.waiting = w :: rest → s.ports.get w = .spaceWait r v →
    s.queue.length + 2 ≤ 16 →
    t = admitEntry q (b.recordBase + BitVec.ofNat 28 (32 * q.index)) (.faultPost g)
      (admitEntry p (b.recordBase + BitVec.ofNat 28 (32 * p.index)) (.faultPost f)
        { s with outs := [], staging := (s.staging.set p none).set q none }) →
    (nonFaultPosts s + r.need ≤ 14 ∧ s.queue.length + 2 + r.need ≤ 16 →
      exec .spaceArbiterPass s = .next (finishEvent (spacePass (admitRequest w r v { t with waiting := rest }))))
    ∧ ((14 < nonFaultPosts s + r.need ∨ 16 < s.queue.length + 2 + r.need) → Quiet s ∨ s.mode = .draining →
      exec .spaceArbiterPass s = .next t))
  ∧ ∀ (p : Port) (r : Request) (v : Verdict) (s : State) (sel : Nat) (a : Addr),
    sel = (r.upAddr.extractLsb' 28 4).toNat → a = r.upAddr.extractLsb' 0 28 →
    (∀ settled body, (sel = 0 ∧ settled = v.attrs.settled) ∨ (sel = 1 ∧ settled = true) → r.op = .write →
      body = EntryBody.store (spanMask (offsetOf a) r.size.bytes) (placeBytes r.data (offsetOf a) r.size.bytes) settled →
      (settled = false →
        admitRequest p r v s =
          { admitEntry p (lineOf a) body s with
            ports := s.ports.set p .idle, outs := s.outs ++ [.response p (.done [])] })
      ∧ (settled = true →
        admitRequest p r v s =
          { admitEntry p (lineOf a) body s with ports := s.ports.set p (.settleWait r v s.nextSerial) }))
    ∧ (sel = 3 → r.op = .write →
      (v.attrs.settled = false →
        admitRequest p r v s =
          { admitEntry p a (.add (r.data.extractLsb' 0 32) false) s with
            ports := s.ports.set p .idle, outs := s.outs ++ [.response p (.done [])] })
      ∧ (v.attrs.settled = true →
        admitRequest p r v s =
          { admitEntry p a (.add (r.data.extractLsb' 0 32) true) s with
            ports := s.ports.set p (.settleWait r v s.nextSerial) }))
    ∧ (sel = 3 → r.op = .read →
      admitRequest p r v s =
        { admitEntry p a .count s with ports := s.ports.set p (.countWait r v s.nextSerial) })
    ∧ (∀ b rec, sel = 2 → r.op = .write → s.config = .loaded b →
      rec = b.recordBase + BitVec.ofNat 28 (32 * p.index) →
      (decideCode s p (lineOf a) = .committed →
        admitRequest p r v s =
          { admitEntry p rec (.outcome ⟨s.writeCounter.get p + 1, .committed, r.size, a⟩)
              (admitEntry p (lineOf a)
                (.commit (spanMask (offsetOf a) r.size.bytes) (placeBytes r.data (offsetOf a) r.size.bytes)
                  v.attrs.settled)
                (consumeClaim p s)) with
            ports := s.ports.set p (if v.attrs.settled then .settleWait r v s.nextSerial else .idle)
            outs := if v.attrs.settled then s.outs else s.outs ++ [.response p (.done [])] })
      ∧ (decideCode s p (lineOf a) ≠ .committed →
        admitRequest p r v s =
          { admitEntry p rec (.outcome ⟨s.writeCounter.get p + 1, decideCode s p (lineOf a), r.size, a⟩)
              (consumeClaim p s) with
            ports := s.ports.set p .idle, outs := s.outs ++ [.response p (.done [])] }))

/-! ### The downstream arbiter -/

/-- GRANT to a queue head that is a candidate (R93), urged by one of the conditions of R95 or with no demand read a candidate:
the head is issued in the lowest-numbered Free slot, as one line write or as the read phase of a locked update, which makes
the Update Engine Busy (R12, R13, R70, R94). Its request by kind: a Store's or Commit's bytes, an Outcome's record
bytes, a Read of 4 at the word, a Read of 32 of the record line (R13, R70, R83). The generation is the first of next
generation, plus 1, plus 2, plus 3 that is not stale (R86); the slot is the lowest-numbered with no occupant and a generation
not stale (R85, R94). -/
def Obligations.GrantIssuesTheHead : Prop :=
  (∀ (i : Ix4) (e : Entry) (rest : List Entry) (s : State),
    lowestFreeSlot s = some i → s.mode ≠ .loading → s.queue = e :: rest → e.issued = false →
    (∀ j o, (s.slots.get j).occupant = some o →
      o.owner.ofQueue = false ∧ (o.owner.countsAsRead = true → memRequestLine o.req ≠ e.line)) →
    (urgeOf s.config ≤ s.queue.length
      ∨ (∃ p r v n, s.ports.get p = .settleWait r v n ∨ s.ports.get p = .countWait r v n)
      ∨ (∃ p o, waitingDemand p s = some o ∧ ∃ x ∈ s.queue, x.line = memRequestLine o.req)
      ∨ ∀ p, demandCandidate p s = false) →
    exec .grant s =
      .next
        { s with
          queue := { e with issued := true } :: rest
          engine := (match e.body with
            | .store _ _ _ => s.engine
            | .commit _ _ _ => s.engine
            | .outcome _ => s.engine
            | _ => .reading e.serial)
          slots := s.slots.set i
            { s.slots.get i with
              occupant := some
                ⟨match e.body with
                  | .store _ _ _ => .lineWrite
                  | .commit _ _ _ => .lineWrite
                  | .outcome _ => .lineWrite
                  | _ => .readPhase,
                  e.issueRequest, (s.slots.get i).chooseGen, timeoutOf s⟩
              nextGen := (s.slots.get i).chooseGen.next }
          outs := [.request ⟨i, (s.slots.get i).chooseGen⟩ e.issueRequest] })
  ∧ (∀ e : Entry, e.issueRequest =
    match e.body with
    | .store m d _ => .write e.target m d
    | .commit m d _ => .write e.target m d
    | .outcome c => .write e.target (spanMask 0 8) (outcomeData c)
    | .add _ _ => .read .b4 e.target
    | .count => .read .b4 e.target
    | .faultPost _ => .read .b32 e.target)
  ∧ (∀ sl : Slot,
    (sl.stale.get sl.nextGen = false → sl.chooseGen = sl.nextGen)
    ∧ (sl.stale.get sl.nextGen = true → sl.stale.get sl.nextGen.next = false → sl.chooseGen = sl.nextGen.next)
    ∧ (sl.stale.get sl.nextGen = true → sl.stale.get sl.nextGen.next = true →
      sl.stale.get sl.nextGen.next.next = false → sl.chooseGen = sl.nextGen.next.next)
    ∧ (sl.stale.get sl.nextGen = true → sl.stale.get sl.nextGen.next = true →
      sl.stale.get sl.nextGen.next.next = true → sl.chooseGen = sl.nextGen.next.next.next))
  ∧ ∀ s : State,
    (∀ i, lowestFreeSlot s = some i ↔
      ((s.slots.get i).occupant = none ∧ ∃ g, (s.slots.get i).stale.get g = false)
        ∧ ∀ j ∈ Ix4.all.takeWhile fun x => decide (x ≠ i),
          (s.slots.get j).occupant ≠ none ∨ ∀ g, (s.slots.get j).stale.get g = true)
    ∧ (lowestFreeSlot s = none ↔
      ∀ i, (s.slots.get i).occupant ≠ none ∨ ∀ g, (s.slots.get i).stale.get g = true)

/-- GRANT to reads (R94, R96): with no urged head, the first port after the demand pointer whose demand read is a candidate is
issued, and the pointer becomes that port: a fill's entry becomes issued (R56) and asks for the 32 bytes of its line, a pass read
becomes issued (R90) and asks for its own size and address (R83). Prefetches come last, with a pointer of their own. Nothing
else changes. The order after a pointer q is q + 1 to q + 6, modulo 6 (R96). A port's waiting demand read, the candidates of
R93 with the holds of R91 and R92, and the urge of R95 are spelled out. -/
def Obligations.GrantIssuesReadsRoundRobin : Prop :=
  (∀ (i : Ix4) (s : State), lowestFreeSlot s = some i → s.mode ≠ .loading → urgedHead s = none →
    (∀ p : Port, roundRobin s.demandPtr (fun q => demandCandidate q s) = some p →
      (∀ r v e l f, s.ports.get p = .readWait r v (.fill e) → (s.lineSets.get p).entries.get e = .filling l f →
        exec .grant s =
          .next
            { s with
              demandPtr := p
              lineSets := s.lineSets.set p
                ⟨(s.lineSets.get p).entries.set e (.filling l { f with issued := true }), (s.lineSets.get p).order⟩
              slots := s.slots.set i
                { s.slots.get i with
                  occupant := some ⟨.fill p e, .read .b32 l, (s.slots.get i).chooseGen, timeoutOf s⟩
                  nextGen := (s.slots.get i).chooseGen.next }
              outs := [.request ⟨i, (s.slots.get i).chooseGen⟩ (.read .b32 l)] })
      ∧ ∀ r v issued, s.ports.get p = .readWait r v (.pass issued) →
        exec .grant s =
          .next
            { s with
              demandPtr := p
              ports := s.ports.set p (.readWait r v (.pass true))
              slots := s.slots.set i
                { s.slots.get i with
                  occupant := some
                    ⟨.pass p, .read r.size (r.upAddr.extractLsb' 0 28), (s.slots.get i).chooseGen, timeoutOf s⟩
                  nextGen := (s.slots.get i).chooseGen.next }
              outs := [.request ⟨i, (s.slots.get i).chooseGen⟩ (.read r.size (r.upAddr.extractLsb' 0 28))] })
    ∧ (∀ (p : Port) (e : Ix4) (l : Addr) (f : Fill), roundRobin s.demandPtr (fun q => demandCandidate q s) = none →
      headCandidate s = none → roundRobin s.prefetchPtr (fun q => prefetchCandidate q s) = some p →
      (s.lineSets.get p).waitingPrefetch = some e → (s.lineSets.get p).entries.get e = .filling l f →
      exec .grant s =
        .next
          { s with
            prefetchPtr := p
            lineSets := s.lineSets.set p
              ⟨(s.lineSets.get p).entries.set e (.filling l { f with issued := true }), (s.lineSets.get p).order⟩
            slots := s.slots.set i
              { s.slots.get i with
                occupant := some ⟨.fill p e, .read .b32 l, (s.slots.get i).chooseGen, timeoutOf s⟩
                nextGen := (s.slots.get i).chooseGen.next }
            outs := [.request ⟨i, (s.slots.get i).chooseGen⟩ (.read .b32 l)] }))
  ∧ (∀ (pointer : Port) (has : Port → Bool),
    (∀ p, roundRobin pointer has = some p ↔
      has p = true ∧ ∀ q : Port, (q.index + (5 - pointer.index)) % 6 < (p.index + (5 - pointer.index)) % 6 → has q = false)
    ∧ (roundRobin pointer has = none ↔ ∀ p, has p = false))
  ∧ (∀ (p : Port) (s : State),
    (∀ o, waitingDemand p s = some o ↔
      (∃ r v e l f, s.ports.get p = .readWait r v (.fill e) ∧ (s.lineSets.get p).entries.get e = .filling l f
        ∧ f.cls = .demand ∧ f.issued = false ∧ o = ⟨.fill p e, .read .b32 l⟩)
      ∨ ∃ r v, s.ports.get p = .readWait r v (.pass false)
        ∧ o = ⟨.pass p, .read r.size (r.upAddr.extractLsb' 0 28)⟩)
    ∧ (demandCandidate p s = true ↔
      ∃ o, waitingDemand p s = some o ∧ ∀ x ∈ s.queue, lineOf x.target ≠ memRequestLine o.req)
    ∧ (prefetchCandidate p s = true ↔ ∃ e, (s.lineSets.get p).waitingPrefetch = some e))
  ∧ (∀ (ls : LineSet) (e : Ix4) (waits : Ix4 → Prop),
    (∀ x, waits x ↔ ∃ l f, ls.entries.get x = .filling l f ∧ f.cls = .prefetch ∧ f.issued = false) →
    (ls.waitingPrefetch = some e ↔ waits e ∧ ∀ x ∈ Ix4.all.takeWhile fun y => decide (y ≠ e), ¬ waits x))
  ∧ (∀ (s : State) (e : Entry),
    (headCandidate s = some e ↔
      s.queue.head? = some e ∧ e.issued = false
      ∧ ∀ j o, (s.slots.get j).occupant = some o →
        o.owner.ofQueue = false ∧ (o.owner.countsAsRead = true → memRequestLine o.req ≠ lineOf e.target))
    ∧ (urgedHead s = some e ↔
      headCandidate s = some e
      ∧ (urgeOf s.config ≤ s.queue.length
        ∨ (∃ p r v n, s.ports.get p = .settleWait r v n ∨ s.ports.get p = .countWait r v n)
        ∨ ∃ p o, waitingDemand p s = some o ∧ ∃ x ∈ s.queue, lineOf x.target = memRequestLine o.req)))
  ∧ (∀ ow : Owner,
    (ow.ofQueue = true ↔ ow = .lineWrite ∨ ow = .readPhase ∨ ow = .writePhase)
    ∧ (ow.countsAsRead = true ↔ (∃ p e, ow = .fill p e) ∨ (∃ p, ow = .pass p) ∨ ow = .discarded))
  ∧ ∀ (size : Size) (a : Addr) (m : Mask) (d : LineData),
    memRequestLine (.read size a) = lineOf a ∧ memRequestLine (.write a m d) = lineOf a

/-- During Loading GRANT issues the Setup Loader's offered read alone, timed with 1024 ticks; with no Free slot no grant is made
in any mode (R94, R98). The line it reads is the setup location for the header, and the location plus 32 k for further line k
(R169). -/
def Obligations.GrantIssuesTheLoadersRead : Prop :=
  (∀ (s : State),
    (∀ i, lowestFreeSlot s = some i → s.mode = .loading → s.loader.offered = true →
      exec .grant s =
        .next
          { s with
            loader := { s.loader with offered := false }
            slots := s.slots.set i
              { s.slots.get i with
                occupant := some ⟨.loader, .read .b32 s.loader.readAddr, (s.slots.get i).chooseGen, 1024⟩
                nextGen := (s.slots.get i).chooseGen.next }
            outs := [.request ⟨i, (s.slots.get i).chooseGen⟩ (.read .b32 s.loader.readAddr)] })
    ∧ (lowestFreeSlot s = none → exec .grant s = .next { s with outs := [] })
    ∧ (s.mode = .loading → s.loader.offered = false → exec .grant s = .next { s with outs := [] }))
  ∧ ∀ l : Loader,
    (l.phase = .header → l.readAddr = l.location)
    ∧ ∀ k m, l.phase = .line k m → l.readAddr = l.location + BitVec.ofNat 28 (32 * k)

/-! ### Completions -/

/-- FILL_COMPLETION with OK of a fill not overtaken (R57): the entry takes the line and becomes most recent, Valid and the
waiting port answered Done with its bytes for a demand fill, Prefetched and no port answered for a prefetch. After a demand fill
a prefetch of the next line may follow, never without Stream (R62; prefetchAfter, stated by PrefetchFollowsServedRead). -/
def Obligations.FillCompletionInstallsTheLine : Prop :=
  ∀ (t : Tag) (d : LineData) (p : Port) (e : Ix4) (l : Addr) (f : Fill) (s : State),
    LiveOwner t (.fill p e) s → (s.lineSets.get p).entries.get e = .filling l f →
    f.issued = true → f.overtaken = false →
    (∀ r v, f.cls = .demand → s.ports.get p = .readWait r v (.fill e) →
      ∃ u, exec (.fillCompletion t (.ok d)) s = .next (finishEvent (prefetchAfter p v l u))
        ∧ u =
          { s with
            slots := s.slots.set t.slot { s.slots.get t.slot with occupant := none }
            ports := s.ports.set p .idle
            lineSets := s.lineSets.set p
              ⟨(s.lineSets.get p).entries.set e (.valid l d),
                e :: (s.lineSets.get p).order.filter fun x => decide (x ≠ e)⟩
            outs := [.response p (.done (bytesFrom d (offsetOf r.addr) r.size.bytes))] }
        ∧ (v.attrs.stream = false → exec (.fillCompletion t (.ok d)) s = .next (finishEvent u)))
    ∧ (f.cls = .prefetch →
      exec (.fillCompletion t (.ok d)) s =
        .next (finishEvent
          { s with
            slots := s.slots.set t.slot { s.slots.get t.slot with occupant := none }
            lineSets := s.lineSets.set p
              ⟨(s.lineSets.get p).entries.set e (.prefetched l d),
                e :: (s.lineSets.get p).order.filter fun x => decide (x ≠ e)⟩
            outs := [] }))

/-- FILL_COMPLETION of an overtaken fill with OK (R58), and of any fill with ERROR (R59): a refill is offered again on the same
line; an older line goes to the read ordered before the write; a failed demand fill answers Failed; otherwise the entry becomes
Empty and no port is answered. -/
def Obligations.FillCompletionWithoutInstall : Prop :=
  ∀ (t : Tag) (c : Completion) (p : Port) (e : Ix4) (l : Addr) (f : Fill) (s : State),
    LiveOwner t (.fill p e) s → (s.lineSets.get p).entries.get e = .filling l f →
    f.issued = true → (f.overtaken = true ∨ c = .error) →
    (f.cls = .prefetch →
      exec (.fillCompletion t c) s =
        .next (finishEvent
          { s with
            slots := s.slots.set t.slot { s.slots.get t.slot with occupant := none }
            lineSets := s.lineSets.set p
              ⟨(s.lineSets.get p).entries.set e .empty, (s.lineSets.get p).order⟩
            outs := [] }))
    ∧ (f.cls = .demand → f.refill = true →
      exec (.fillCompletion t c) s =
        .next (finishEvent
          { s with
            slots := s.slots.set t.slot { s.slots.get t.slot with occupant := none }
            lineSets := s.lineSets.set p
              ⟨(s.lineSets.get p).entries.set e (.filling l ⟨.demand, false, false, false⟩),
                (s.lineSets.get p).order⟩
            outs := [] }))
    ∧ (∀ r v, f.cls = .demand → f.refill = false → s.ports.get p = .readWait r v (.fill e) →
      exec (.fillCompletion t c) s =
        .next (finishEvent
          { s with
            slots := s.slots.set t.slot { s.slots.get t.slot with occupant := none }
            ports := s.ports.set p .idle
            lineSets := s.lineSets.set p
              ⟨(s.lineSets.get p).entries.set e .empty, (s.lineSets.get p).order⟩
            outs := [.response p (match c with
              | .ok d => .done (bytesFrom d (offsetOf r.addr) r.size.bytes)
              | .error => .failed .downstreamError)] }))

/-- PASS_READ_COMPLETION: the waiting port is answered Done with the bytes returned, or Failed with DownstreamError, and becomes
Idle; no line set changes (R90). -/
def Obligations.PassReadCompletionAnswersThePort : Prop :=
  ∀ (t : Tag) (c : Completion) (p : Port) (r : Request) (v : Verdict) (s : State),
    LiveOwner t (.pass p) s → s.ports.get p = .readWait r v (.pass true) →
    exec (.passReadCompletion t c) s =
      .next (finishEvent
        { s with
          slots := s.slots.set t.slot { s.slots.get t.slot with occupant := none }
          ports := s.ports.set p .idle
          outs := [.response p (match c with
            | .ok d => .done (bytesFrom d 0 r.size.bytes)
            | .error => .failed .downstreamError)] })

/-- STORE_COMPLETION (R14): the entry is removed. A posted Store owes nothing with OK and a StoreError report with ERROR; a
settled one owes its port Done or Failed, delivered when the port waits on it and discarded otherwise (R19). A delivery answers
the port and makes it Idle exactly when it is in SettleWait or CountWait on that entry, and changes nothing otherwise. -/
def Obligations.StoreCompletionEndsTheStore : Prop :=
  (∀ (t : Tag) (c : Completion) (e : Entry) (m : Mask) (d : LineData) (settled : Bool) (s : State),
    LiveOwner t .lineWrite s → s.queue.head? = some e → e.body = .store m d settled →
    exec (.storeCompletion t c) s =
      .next (finishEvent (removeHead
        (match settled, c with
        | true, .ok _ => deliver e.port e.serial (.done []) (freeSlot t.slot { s with outs := [] })
        | true, .error =>
          deliver e.port e.serial (.failed .downstreamError) (freeSlot t.slot { s with outs := [] })
        | false, .ok _ => freeSlot t.slot { s with outs := [] }
        | false, .error =>
          reportFault e.port .storeError e.target (freeSlot t.slot { s with outs := [] })))))
  ∧ (∀ (i : Ix4) (s : State),
    freeSlot i s = { s with slots := s.slots.set i { s.slots.get i with occupant := none } })
  ∧ ∀ (p : Port) (serial : Nat) (x : Response) (s : State),
    (∀ r v, (s.ports.get p = .settleWait r v serial ∨ s.ports.get p = .countWait r v serial) →
      deliver p serial x s = { s with ports := s.ports.set p .idle, outs := s.outs ++ [.response p x] })
    ∧ ((∀ r v, s.ports.get p ≠ .settleWait r v serial ∧ s.ports.get p ≠ .countWait r v serial) →
      deliver p serial x s = s)

/-- COMMIT_COMPLETION (R15): the entry is removed; with ERROR the code of the Outcome directly behind it becomes Failed, its
sequence, size and address kept, and a posted Commit's failure is reported while a settled one's is answered. -/
def Obligations.CommitCompletionRewritesTheOutcome : Prop :=
  ∀ (t : Tag) (e o : Entry) (rest : List Entry) (m : Mask) (d : LineData) (settled : Bool)
    (oc : OutcomeContent) (s : State),
    LiveOwner t .lineWrite s → s.queue = e :: o :: rest → e.body = .commit m d settled → o.body = .outcome oc →
    (∀ x, exec (.commitCompletion t (.ok x)) s =
      .next (finishEvent (spacePass
        (let s1 := { freeSlot t.slot { s with outs := [] } with queue := o :: rest }
        if settled then deliver e.port e.serial (.done []) s1 else s1))))
    ∧ exec (.commitCompletion t .error) s =
      .next (finishEvent (spacePass
        (let s1 := { freeSlot t.slot { s with outs := [] } with
          queue := { o with body := .outcome ⟨oc.sequence, .failed, oc.size, oc.addr⟩ } :: rest }
        if settled then deliver e.port e.serial (.failed .downstreamError) s1
        else reportFault e.port .commitError e.target s1)))

/-- The completion of an Outcome head (R16): the entry is removed, with Done nothing further follows, and with Error or Timeout
the record-lost condition is set, which ALERT shows. -/
def Obligations.OutcomeCompletionMayLoseTheRecord : Prop :=
  ∀ (t : Tag) (e : Entry) (oc : OutcomeContent) (s : State),
    LiveOwner t .lineWrite s → s.queue.head? = some e → e.body = .outcome oc →
    (∀ d, exec (.outcomeCompletion t (.ok d)) s =
      .next (finishEvent (removeHead (freeSlot t.slot { s with outs := [] }))))
    ∧ exec (.outcomeCompletion t .error) s =
      .next (finishEvent (removeHead { freeSlot t.slot { s with outs := [] } with recordLost := true }))
    ∧ exec (.downstreamTimeout t) s =
      .next (finishEvent (removeHead
        { s with
          outs := [], recordLost := true
          slots := s.slots.set t.slot
            { s.slots.get t.slot with
              occupant := none, stale := (s.slots.get t.slot).stale.set t.gen true } }))

/-- The arithmetic of locked updates: the sum of R71 as a whole number with its three cases, and the count of R72. -/
def Obligations.LockedUpdateArithmetic : Prop :=
  (∀ old operand : Word,
    (0 ≤ (old.toNat : Int) + operand.toInt ∧ (old.toNat : Int) + operand.toInt ≤ 2 ^ 32 - 1 →
      ((addWord old operand).1.toNat : Int) = old.toNat + operand.toInt ∧ (addWord old operand).2 = false)
    ∧ ((old.toNat : Int) + operand.toInt < 0 →
      ((addWord old operand).1.toNat : Int) = old.toNat + operand.toInt + 2 ^ 32 ∧ (addWord old operand).2 = true)
    ∧ (2 ^ 32 - 1 < (old.toNat : Int) + operand.toInt →
      ((addWord old operand).1.toNat : Int) = old.toNat + operand.toInt - 2 ^ 32 ∧ (addWord old operand).2 = true))
  ∧ ∀ old : Word,
    (old.toNat < 0xFFFFFFFF → (countWord old).1.toNat = old.toNat + 1 ∧ (countWord old).2 = false)
    ∧ (old.toNat = 0xFFFFFFFF → (countWord old).1 = 0 ∧ (countWord old).2 = true)

/-- READ_PHASE_COMPLETION of an Add or a Count (R71, R72, R74, R75): with OK the new value is computed and the write phase is
issued in the slot held, on the word's four positions; with ERROR the update ends as R76 and R77 give: a posted Add reports
AddError at its word address, a settled Add and a Count owe their port Failed, DownstreamError, and the entry is removed with the
engine Idle. Byte j of the word's little-endian value stands at the word's position plus j, under a mask of those four positions
(R74). -/
def Obligations.ReadPhaseOfAWordIssuesItsWrite : Prop :=
  (∀ (t : Tag) (e : Entry) (nw : Word × Bool) (d : LineData) (s : State),
    LiveOwner t .readPhase s → s.queue.head? = some e →
    ((∃ operand settled, e.body = .add operand settled ∧ nw = addWord (d.extractLsb' 0 32) operand)
      ∨ (e.body = .count ∧ nw = countWord (d.extractLsb' 0 32))) →
    exec (.readPhaseCompletion t (.ok d)) s =
      .next (finishEvent
        { s with
          engine := .writing e.serial (.word (d.extractLsb' 0 32) nw.1 nw.2)
          slots := s.slots.set t.slot
            { s.slots.get t.slot with
              occupant := some ⟨.writePhase,
                .write e.line (spanMask (offsetOf e.target) 4) (wordLineData nw.1 (offsetOf e.target)),
                (s.slots.get t.slot).chooseGen, timeoutOf s⟩
              nextGen := (s.slots.get t.slot).chooseGen.next }
          outs := [.request ⟨t.slot, (s.slots.get t.slot).chooseGen⟩
            (.write e.line (spanMask (offsetOf e.target) 4) (wordLineData nw.1 (offsetOf e.target)))] })
    ∧ (∀ operand, e.body = .add operand false →
      exec (.readPhaseCompletion t .error) s =
        .next (finishEvent (removeHead
          { reportFault e.port .addError e.target (freeSlot t.slot { s with outs := [] }) with
            engine := .idle, notifyMark := none })))
    ∧ ((∃ operand, e.body = .add operand true) ∨ e.body = .count →
      exec (.readPhaseCompletion t .error) s =
        .next (finishEvent (removeHead
          { deliver e.port e.serial (.failed .downstreamError) (freeSlot t.slot { s with outs := [] }) with
            engine := .idle, notifyMark := none }))))
  ∧ ∀ (w : Word) (off i : Nat), off + 4 ≤ 32 → i < 32 →
    (byteAt (wordLineData w off) i = if off ≤ i ∧ i < off + 4 then w.extractLsb' (8 * (i - off)) 8 else 0)
    ∧ (spanMask off 4).getLsbD i = decide (off ≤ i ∧ i < off + 4)

/-- READ_PHASE_COMPLETION of a FaultPost (R73, R74, R157): with OK the merge is written at positions 8 to 15 of the record line,
and whether Notify was nonzero is kept; with ERROR the record-lost condition is set, with no pulse, and the entry is removed
with the engine Idle (R75, R158). -/
def Obligations.ReadPhaseOfAFaultPostMerges : Prop :=
  ∀ (t : Tag) (e : Entry) (f : FaultContent) (d : LineData) (s : State),
    LiveOwner t .readPhase s → s.queue.head? = some e → e.body = .faultPost f →
    exec (.readPhaseCompletion t (.ok d)) s =
      .next (finishEvent
        { s with
          engine := .writing e.serial (.record (faultMerge d f))
          notifyMark := some (decide (byteAt d 11 ≠ 0))
          slots := s.slots.set t.slot
            { s.slots.get t.slot with
              occupant := some ⟨.writePhase,
                .write e.target (spanMask 8 8) (faultLineData (faultMerge d f)),
                (s.slots.get t.slot).chooseGen, timeoutOf s⟩
              nextGen := (s.slots.get t.slot).chooseGen.next }
          outs := [.request ⟨t.slot, (s.slots.get t.slot).chooseGen⟩
            (.write e.target (spanMask 8 8) (faultLineData (faultMerge d f)))] })
    ∧ exec (.readPhaseCompletion t .error) s =
      .next (finishEvent (removeHead
        { freeSlot t.slot { s with outs := [] } with engine := .idle, notifyMark := none, recordLost := true }))

/-- The bytes of a record as the part writes them (R179). An Outcome writes sequence, code, size and address at bytes 0 to 7 and
nothing above, under a mask of positions 0 to 7 (R153). A FaultPost merges field by field: flags united with bit 7 as read, the
count saturating at 255, the first fault kept unless its kind reads 0, Notify 0 (R157); its eight bytes stand at positions 8 to
15 of the line, under a mask of those positions (R74). The outcome codes (R48), the fault kinds (R154), and the status and reason
codes of a port link have the numbers of R180. -/
def Obligations.RecordBytesAreWrittenByField : Prop :=
  (∀ o : OutcomeContent,
    (outcomeData o).extractLsb' 0 16 = o.sequence
    ∧ byteAt (outcomeData o) 2 = BitVec.ofNat 8 o.code.value
    ∧ byteAt (outcomeData o) 3 = BitVec.ofNat 8 o.size.bytes
    ∧ (outcomeData o).extractLsb' 32 28 = o.addr
    ∧ (outcomeData o).extractLsb' 60 196 = 0
    ∧ ∀ i, outcomeMask.getLsbD i = decide (i < 8))
  ∧ (∀ (line : LineData) (f : FaultContent),
    (faultMerge line f).extractLsb' 0 8 = byteAt line 8 ||| f.flags
    ∧ (faultMerge line f).extractLsb' 8 8 = BitVec.ofNat 8 (min 255 ((byteAt line 9).toNat + f.count))
    ∧ (faultMerge line f).extractLsb' 24 8 = 0
    ∧ (byteAt line 10 = 0 →
      (faultMerge line f).extractLsb' 16 8 = BitVec.ofNat 8 f.firstKind.value
      ∧ (faultMerge line f).extractLsb' 32 32 = f.firstAddr.zeroExtend 32)
    ∧ (byteAt line 10 ≠ 0 →
      (faultMerge line f).extractLsb' 16 8 = byteAt line 10
      ∧ (faultMerge line f).extractLsb' 32 32 = line.extractLsb' 96 32))
  ∧ (∀ (content : BitVec 64) (i : Nat), i < 32 →
    (byteAt (faultLineData content) i = if 8 ≤ i ∧ i < 16 then content.extractLsb' (8 * (i - 8)) 8 else 0)
    ∧ (spanMask 8 8).getLsbD i = decide (8 ≤ i ∧ i < 16)
    ∧ (spanMask 0 8).getLsbD i = decide (i < 8))
  ∧ [OutcomeCode.none, .committed, .broken, .expired, .notHeld, .crowded, .dropped, .failed].map OutcomeCode.value =
    [0, 1, 2, 3, 4, 5, 6, 7]
  ∧ [FaultKind.storeError, .storeTimeout, .commitError, .commitTimeout, .addError, .addTimeout, .wrap].map FaultKind.value =
    [1, 2, 3, 4, 5, 6, 7]
  ∧ (∀ data, (Response.done data).statusCode = 0 ∧ (Response.done data).reasonCode = 0)
  ∧ (∀ reason, (Response.refused reason).statusCode = 1) ∧ (∀ reason, (Response.failed reason).statusCode = 2)
  ∧ [RefuseReason.voidView, .misaligned, .badSize, .unmapped, .viewDenied, .readDenied, .writeDenied].map
      (fun reason => (Response.refused reason).reasonCode) = [1, 2, 3, 4, 5, 6, 7]
  ∧ [FailReason.downstreamError, .downstreamTimeout].map (fun reason => (Response.failed reason).reasonCode) = [8, 9]

/-- WRITE_PHASE_COMPLETION of an Add or a Count (R75 to R77): with OK the old value goes to a Count's port and Done to a settled
Add's, and a wrap is reported; with ERROR a posted Add reports AddError and the others answer Failed. The engine becomes Idle
and the entry is removed. The old value is answered as four bytes, little-endian, byte j at place j (R77, R117). -/
def Obligations.WritePhaseOfAWordEndsTheUpdate : Prop :=
  (∀ (t : Tag) (c : Completion) (e : Entry) (old new : Word) (wrap : Bool) (s s0 : State),
    LiveOwner t .writePhase s → s.queue.head? = some e → s.engine = .writing e.serial (.word old new wrap) →
    s0 = freeSlot t.slot { s with outs := [] } →
    (∀ operand settled, e.body = .add operand settled →
      exec (.writePhaseCompletion t c) s =
        .next (finishEvent (removeHead (engineIdle
          (match c, settled with
          | .ok _, true =>
            if wrap then reportFault e.port .wrap e.target (deliver e.port e.serial (.done []) s0)
            else deliver e.port e.serial (.done []) s0
          | .ok _, false => if wrap then reportFault e.port .wrap e.target s0 else s0
          | .error, true => deliver e.port e.serial (.failed .downstreamError) s0
          | .error, false => reportFault e.port .addError e.target s0)))))
    ∧ (e.body = .count →
      exec (.writePhaseCompletion t c) s =
        .next (finishEvent (removeHead (engineIdle
          (match c with
          | .ok _ =>
            if wrap then reportFault e.port .wrap e.target (deliver e.port e.serial (.done (wordBytes old)) s0)
            else deliver e.port e.serial (.done (wordBytes old)) s0
          | .error => deliver e.port e.serial (.failed .downstreamError) s0))))))
  ∧ (∀ s : State, engineIdle s = { s with engine := .idle, notifyMark := none })
  ∧ ∀ (w : Word) (j : Nat),
    (wordBytes w).length = 4 ∧ (j < 4 → (wordBytes w)[j]? = some (w.extractLsb' (8 * j) 8))

/-- WRITE_PHASE_COMPLETION of a FaultPost (R158, R159): one FAULT pulse with OK when the Notify read was nonzero, none when it was
0; with ERROR the record-lost condition is set and there is no pulse. -/
def Obligations.FaultPostEndPulsesOrLoses : Prop :=
  ∀ (t : Tag) (e : Entry) (f : FaultContent) (mark : Bool) (s : State),
    LiveOwner t .writePhase s → s.queue.head? = some e → e.body = .faultPost f → s.notifyMark = some mark →
    (∀ d, exec (.writePhaseCompletion t (.ok d)) s =
      .next (finishEvent (removeHead
        { freeSlot t.slot s with
          engine := .idle, notifyMark := none
          outs := if mark then [.faultPulse] else [] })))
    ∧ exec (.writePhaseCompletion t .error) s =
      .next (finishEvent (removeHead
        { freeSlot t.slot s with
          engine := .idle, notifyMark := none, recordLost := true, outs := [] }))

/-- LOADER_READ_COMPLETION (R169 to R173): a header that passes checks 1 to 3 offers line 1 of n / 2 + 1, a further line offers
the next, and the load ends with the fallback configuration at a failed header or an ERROR, with the block's result at the last
line. -/
def Obligations.LoaderReadCompletionAdvancesTheLoad : Prop :=
  ∀ (t : Tag) (d : LineData) (s s0 : State), LiveOwner t .loader s → s0 = freeSlot t.slot { s with outs := [] } →
    (s.loader.phase = .header → headerPasses (s.loader.block ++ [d]) = true →
      exec (.loaderReadCompletion t (.ok d)) s =
        .next (finishEvent
          { s0 with
            loader := ⟨.line 1 (blockCount (s.loader.block ++ [d]) / 2 + 1), true, s.loader.location,
              s.loader.block ++ [d]⟩ }))
    ∧ (s.loader.phase = .header → headerPasses (s.loader.block ++ [d]) = false →
      exec (.loaderReadCompletion t (.ok d)) s = .next (finishEvent (loadComplete .fallback s0)))
    ∧ (∀ k m, s.loader.phase = .line k m → k < m →
      exec (.loaderReadCompletion t (.ok d)) s =
        .next (finishEvent
          { s0 with loader := ⟨.line (k + 1) m, true, s.loader.location, s.loader.block ++ [d]⟩ }))
    ∧ (∀ k m, s.loader.phase = .line k m → m ≤ k →
      exec (.loaderReadCompletion t (.ok d)) s =
        .next (finishEvent (loadComplete (loadResult (s.loader.block ++ [d])) s0)))
    ∧ exec (.loaderReadCompletion t .error) s = .next (finishEvent (loadComplete .fallback s0))

/-- The setup block: word 8 k + j is bytes 4 j to 4 j + 3 of line k, little-endian (R178); a block is in force after the load
exactly when it passes the checks of R171, of which the first three are made on the header, and installs the windows and
parameters its fields hold (R113, R172, R178). -/
def Obligations.SetupBlockIsCheckedByField : Prop :=
  ∀ (b : List LineData) (w : Nat → Nat) (n : Nat), w = blockWord b → n = w 1 / 256 % 256 →
    (∀ k j line, b[k]? = some line → j < 8 → w (8 * k + j) = (line.extractLsb' (32 * j) 32).toNat)
    ∧ (loadResult b = .loaded (setupOf b) ∨ loadResult b = .fallback)
    ∧ (loadResult b = .loaded (setupOf b) ↔
      w 0 = 0x3A71C5E2 ∧ w 1 % 256 = 1 ∧ (1 ≤ n ∧ n ≤ 16)
      ∧ w 1 / 65536 % 256 ≤ 15 ∧ (1 ≤ w 2 % 65536 ∧ w 2 % 65536 ≤ 4095) ∧ 1 ≤ w 2 / 65536 % 65536
      ∧ (1 ≤ w 1 / 16777216 % 256 ∧ w 1 / 16777216 % 256 ≤ 14)
      ∧ (w 3 % 32 = 0 ∧ w 3 + 192 ≤ 0x10000000) ∧ (w 4 = 0 ∧ w 5 = 0 ∧ w 6 = 0 ∧ w 7 = 0)
      ∧ (∀ i, i < n →
        w (8 + 4 * i) ≤ w (9 + 4 * i) ∧ w (9 + 4 * i) ≤ 0xFFFF
        ∧ ((w (10 + 4 * i) % 65536).testBit 1 = true → (w (10 + 4 * i) % 65536).testBit 0 = true)
        ∧ w (10 + 4 * i) % 65536 < 32
        ∧ w (10 + 4 * i) / 65536 % 256 < 64 ∧ w (10 + 4 * i) / 16777216 % 256 < 64 ∧ w (11 + 4 * i) = 0)
      ∧ ((List.range (8 + 4 * n + 1)).map w).sum % 2 ^ 32 = 0)
    ∧ (setupOf b).windows.length = n
    ∧ (∀ i win, (setupOf b).windows[i]? = some win →
      win.base = BitVec.ofNat 16 (w (8 + 4 * i)) ∧ win.limit = BitVec.ofNat 16 (w (9 + 4 * i))
      ∧ win.attrs = ⟨(w (10 + 4 * i) % 65536).testBit 0, (w (10 + 4 * i) % 65536).testBit 1,
        (w (10 + 4 * i) % 65536).testBit 2, (w (10 + 4 * i) % 65536).testBit 3, (w (10 + 4 * i) % 65536).testBit 4⟩
      ∧ ∀ p, win.readPorts.get p = (w (10 + 4 * i) / 65536 % 256).testBit p.index
        ∧ win.writePorts.get p = (w (10 + 4 * i) / 16777216 % 256).testBit p.index)
    ∧ (setupOf b).tickExponent = w 1 / 65536 % 256 ∧ (setupOf b).urge = w 1 / 16777216 % 256
    ∧ (setupOf b).claimHold = w 2 % 65536 ∧ (setupOf b).timeout = w 2 / 65536 % 65536
    ∧ (setupOf b).recordBase = BitVec.ofNat 28 (w 3)
    ∧ blockCount b = n
    ∧ (headerPasses b = true ↔ w 0 = 0x3A71C5E2 ∧ w 1 % 256 = 1 ∧ (1 ≤ n ∧ n ≤ 16))

/-- Load completion (R172, R173): the result is in force, every line set is Empty, the record-lost condition is clear and the
loader has ended; with the latch clear the device serves, with the latch set it is cleared and a new Loading begins; nothing else
changes, so claim statuses, counters and the arming count persist (R45). SETUP_OK is high exactly when a setup is in force and the
device is not Loading (R165); ALERT shows the record-lost condition (R160). What a configuration has in force: Loaded its own
windows and five parameters (R113, R166, R172); Fallback the one window of R112, the urge threshold 1, the loading defaults, and
no claim hold and no record base; while Loading the exponent is 10 and the timeout 1024 whatever is installed (R95, R166). A
request held by the one link whose port can accept is accepted in the load completion (R120, R173). -/
def Obligations.LoadCompletionInstallsTheResult : Prop :=
  (∀ (result : Configuration) (s t : State),
    t = { s with
      config := result
      lineSets := PerPort.const LineSet.allEmpty
      recordLost := false } →
    (s.reloadLatch = false →
      loadComplete result s =
        { t with mode := .serving, loader := { s.loader with phase := .ended, offered := false, block := [] } })
    ∧ (s.reloadLatch = true →
      loadComplete result s =
        { t with
          mode := .loading
          reloadLatch := false
          straps := Config.strapLevels s.freeCount
          freeCount := s.freeCount + 1
          loader := ⟨.header, true, BitVec.ofNat 28 (0x400000 * (Config.strapLevels s.freeCount).toNat), []⟩ })
    ∧ alertLevel (loadComplete result s) = false
    ∧ (setupOK (loadComplete result s) = true ↔ s.reloadLatch = false ∧ ∃ b, result = .loaded b)
    ∧ ∀ p r, s.reloadLatch = false → s.links.get p = some r → s.ports.get p = .idle → s.presetLines.get p = false →
      (∀ q, q ≠ p → s.links.get q = none ∨ s.ports.get q ≠ .idle ∨ s.presetLines.get q = true) →
      finishEvent (loadComplete result s) = accept p r { loadComplete result s with links := s.links.set p none })
  ∧ (∀ b : Setup,
    windowTable (.loaded b) = b.windows ∧ urgeOf (.loaded b) = b.urge ∧ claimHoldOf (.loaded b) = some b.claimHold
    ∧ recordBaseOf (.loaded b) = some b.recordBase)
  ∧ windowTable .fallback =
    [⟨0, 0xFFFF, ⟨false, false, true, false, false⟩, ⟨true, true, true, true, true, true⟩,
      ⟨true, true, true, true, true, true⟩⟩]
  ∧ urgeOf .fallback = 1 ∧ claimHoldOf .fallback = none ∧ recordBaseOf .fallback = none
  ∧ (∀ s : State,
    (s.mode = .loading ∨ s.config = .fallback → tickExponentOf s = 10 ∧ timeoutOf s = 1024)
    ∧ (∀ b, s.mode ≠ .loading → s.config = .loaded b → tickExponentOf s = b.tickExponent ∧ timeoutOf s = b.timeout)
    ∧ tickNanoseconds s = 125 * 2 ^ tickExponentOf s
    ∧ (setupOK s = true ↔ s.mode ≠ .loading ∧ ∃ b, s.config = .loaded b)
    ∧ alertLevel s = s.recordLost)
  ∧ LineSet.allEmpty.order = [] ∧ ∀ e, LineSet.allEmpty.entries.get e = .empty

/-- STALE_COMPLETION: a completion whose tag names no live operation is discarded; its generation leaves the stale set, and
nothing else changes. DISCARDED_OPERATION_END: the slot is freed and the data or error is dropped (R66, R87, R89). A tag names
the occupant of its slot when the generation is the occupant's (R87). -/
def Obligations.DiscardedCompletionsReachNoBlock : Prop :=
  ∀ (t : Tag) (c : Completion) (s : State),
    (liveOp t s = none →
      exec (.staleCompletion t c) s =
        .next (finishEvent
          { s with
            outs := []
            slots := s.slots.set t.slot
              { s.slots.get t.slot with stale := (s.slots.get t.slot).stale.set t.gen false } }))
    ∧ (LiveOwner t .discarded s →
      exec (.discardedOperationEnd t c) s =
        .next (finishEvent
          { s with
            outs := []
            slots := s.slots.set t.slot { s.slots.get t.slot with occupant := none } }))
    ∧ ∀ o, liveOp t s = some o ↔ (s.slots.get t.slot).occupant = some o ∧ o.gen = t.gen

/-- DOWNSTREAM_TIMEOUT (R88): the operation's occupant leaves the slot, its generation becomes stale, and Timeout goes to its
owner. By owner: a fill (R59: the entry Empty and the port answered Failed, DownstreamTimeout, or a refill offered again, or a
prefetch gone unreported), a pass read (R90), a Store (R14: StoreTimeout, or Failed when settled), a Commit (R15: the Outcome
behind rewritten to Failed, CommitTimeout, or Failed when settled), either phase of a locked update (R75 to R77, R158: AddTimeout,
Failed when settled or a Count, the record-lost condition for a FaultPost), a loader read (R170: load completion with Fallback),
a discarded operation (R66: nothing). Outcomes: OutcomeCompletionMayLoseTheRecord. An operation that has ended has no timer, and
nothing happens. -/
def Obligations.TimeoutAbandonsTheOperation : Prop :=
  ∀ (t : Tag) (s s0 : State),
    s0 = { s with
      outs := []
      slots := s.slots.set t.slot
        { s.slots.get t.slot with occupant := none, stale := (s.slots.get t.slot).stale.set t.gen true } } →
    (∀ o, liveOp t s = some o →
      exec (.downstreamTimeout t) s = .next (finishEvent (endOperation t.slot o.owner .timeout s0)))
    ∧ (∀ p e l f, LiveOwner t (.fill p e) s → (s.lineSets.get p).entries.get e = .filling l f → f.issued = true →
      (f.cls = .prefetch →
        exec (.downstreamTimeout t) s =
          .next (finishEvent
            { s0 with
              lineSets := s.lineSets.set p
                ⟨(s.lineSets.get p).entries.set e .empty, (s.lineSets.get p).order⟩ }))
      ∧ (f.cls = .demand → f.refill = true →
        exec (.downstreamTimeout t) s =
          .next (finishEvent
            { s0 with
              lineSets := s.lineSets.set p
                ⟨(s.lineSets.get p).entries.set e (.filling l ⟨.demand, false, false, false⟩),
                  (s.lineSets.get p).order⟩ }))
      ∧ (∀ r v, f.cls = .demand → f.refill = false → s.ports.get p = .readWait r v (.fill e) →
        exec (.downstreamTimeout t) s =
          .next (finishEvent
            { s0 with
              ports := s.ports.set p .idle
              lineSets := s.lineSets.set p
                ⟨(s.lineSets.get p).entries.set e .empty, (s.lineSets.get p).order⟩
              outs := [.response p (.failed .downstreamTimeout)] })))
    ∧ (∀ p r v, LiveOwner t (.pass p) s → s.ports.get p = .readWait r v (.pass true) →
      exec (.downstreamTimeout t) s =
        .next (finishEvent
          { s0 with
            ports := s.ports.set p .idle
            outs := [.response p (.failed .downstreamTimeout)] }))
    ∧ (∀ e m d settled, LiveOwner t .lineWrite s → s.queue.head? = some e → e.body = .store m d settled →
      exec (.downstreamTimeout t) s =
        .next (finishEvent (removeHead
          (if settled then deliver e.port e.serial (.failed .downstreamTimeout) s0
          else reportFault e.port .storeTimeout e.target s0))))
    ∧ (∀ e o rest m d settled oc, LiveOwner t .lineWrite s → s.queue = e :: o :: rest → e.body = .commit m d settled →
      o.body = .outcome oc →
      exec (.downstreamTimeout t) s =
        .next (finishEvent (spacePass
          (let s1 := { s0 with
            queue := { o with body := .outcome ⟨oc.sequence, .failed, oc.size, oc.addr⟩ } :: rest }
          if settled then deliver e.port e.serial (.failed .downstreamTimeout) s1
          else reportFault e.port .commitTimeout e.target s1))))
    ∧ (∀ e, (LiveOwner t .readPhase s ∨ LiveOwner t .writePhase s) → s.queue.head? = some e →
      (∀ operand, e.body = .add operand false →
        exec (.downstreamTimeout t) s =
          .next (finishEvent (removeHead
            { reportFault e.port .addTimeout e.target s0 with engine := .idle, notifyMark := none })))
      ∧ ((∃ operand, e.body = .add operand true) ∨ e.body = .count →
        exec (.downstreamTimeout t) s =
          .next (finishEvent (removeHead
            { deliver e.port e.serial (.failed .downstreamTimeout) s0 with engine := .idle, notifyMark := none })))
      ∧ (∀ c, e.body = .faultPost c →
        exec (.downstreamTimeout t) s =
          .next (finishEvent (removeHead
            { s0 with engine := .idle, notifyMark := none, recordLost := true }))))
    ∧ (LiveOwner t .loader s →
      exec (.downstreamTimeout t) s = .next (finishEvent (loadComplete .fallback s0)))
    ∧ (LiveOwner t .discarded s → exec (.downstreamTimeout t) s = .next (finishEvent s0))
    ∧ (liveOp t s = none → exec (.downstreamTimeout t) s = .next (finishEvent { s with outs := [] }))

/-- A fault report is absorbed into the port's staging (R155): the kind joins the flags, the count rises and stays at 255, and
the first fault is the earliest. -/
def Obligations.ReportIsAbsorbed : Prop :=
  ∀ (p : Port) (k : FaultKind) (a : Addr) (s : State),
    (s.staging.get p = none →
      reportFault p k a s = { s with staging := s.staging.set p (some ⟨1#8 <<< (k.value - 1), 1, k, a⟩) })
    ∧ ∀ f, s.staging.get p = some f →
      reportFault p k a s =
        { s with
          staging := s.staging.set p
            (some ⟨f.flags ||| 1#8 <<< (k.value - 1), min 255 (f.count + 1), f.firstKind, f.firstAddr⟩) }

/-! ### Claims, the reload and port resets -/

/-- HOLD_EXPIRY (R34, R26): with the stamp of the claim's latest arming the owner becomes Lapsed with reason Expired and the
claim's line, the entry is freed, nothing else changes, and a claim write of the owner admitted to that line is then decided
Expired; in every other case the expiry is discarded. -/
def Obligations.HoldExpiryLapsesTheClaim : Prop :=
  ∀ (c : Ix4) (stamp : BitVec 8) (s : State),
    (∀ cl, s.claimTable.get c = some cl → cl.order = stamp →
      ∃ t, exec (.holdExpiry c stamp) s = .next t
        ∧ t =
          { s with
            outs := []
            claimTable := s.claimTable.set c none
            claimStatus := s.claimStatus.set cl.owner (.lapsed .expired cl.line) }
        ∧ decideCode t cl.owner cl.line = .expired)
    ∧ ((∀ cl, s.claimTable.get c = some cl → cl.order ≠ stamp) →
      exec (.holdExpiry c stamp) s = .next { s with outs := [] })

/-- RELOAD_EDGE by the mode (R174, R175): drain start in Serving, with every claim dropped (R44), every waiting prefetch
withdrawn (R67) and nothing else changed, and the start of Loading in the same event when nothing is in hand (R176); the latch
set in Loading, and in Draining; not taken while RESET is asserted. -/
def Obligations.ReloadEdgeActsByMode : Prop :=
  ∀ s : State,
    (s.resetLine = false → s.mode = .serving → ClaimLaw s →
      ∃ t,
        (∀ c, t.claimTable.get c = none)
        ∧ (∀ p, t.claimStatus.get p =
          match s.claimStatus.get p with
          | .held c => .lapsed .dropped ((s.claimTable.get c).elim 0 Claim.line)
          | x => x)
        ∧ (∀ p, (t.lineSets.get p).order = (s.lineSets.get p).order
          ∧ ∀ e, (t.lineSets.get p).entries.get e =
            match (s.lineSets.get p).entries.get e with
            | .filling l f => if f.cls = .prefetch ∧ f.issued = false then .empty else .filling l f
            | x => x)
        ∧ t =
          { s with
            outs := [], mode := .draining
            claimTable := t.claimTable, claimStatus := t.claimStatus, lineSets := t.lineSets }
        ∧ (¬ NothingInHand s → exec .reloadEdge s = .next t)
        ∧ (NothingInHand s →
          exec .reloadEdge s =
            .next
              { t with
                mode := .loading
                straps := Config.strapLevels s.freeCount
                freeCount := s.freeCount + 1
                loader := ⟨.header, true,
                  BitVec.ofNat 28 (0x400000 * (Config.strapLevels s.freeCount).toNat), []⟩ }))
    ∧ (s.resetLine = false → s.mode = .loading →
      exec .reloadEdge s = .next { s with outs := [], reloadLatch := true })
    ∧ (s.resetLine = false → s.mode = .draining →
      exec .reloadEdge s = .next (finishEvent { s with outs := [], reloadLatch := true }))
    ∧ (s.resetLine = true → s.mode = .loading → exec .reloadEdge s = .next { s with outs := [] })

/-- DRAIN_COMPLETION (R176): in Draining, with no port holding a request, the queue and every staging empty and the Downstream
Port idle, the device enters Loading and the loader offers its header read; otherwise nothing changes. -/
def Obligations.DrainCompletionEntersLoading : Prop :=
  ∀ s : State,
    (s.mode = .draining → (∀ p, s.ports.get p = .idle ∨ s.ports.get p = .reset) → s.queue = [] →
      (∀ p, s.staging.get p = none) → (∀ i, (s.slots.get i).occupant = none) →
      (∀ p, (s.lineSets.get p).waitingPrefetch = none) →
      exec .drainCompletion s =
        .next
          { s with
            outs := []
            mode := .loading
            straps := Config.strapLevels s.freeCount
            freeCount := s.freeCount + 1
            loader := ⟨.header, true,
              BitVec.ofNat 28 (0x400000 * (Config.strapLevels s.freeCount).toNat), []⟩ })
    ∧ ((s.mode ≠ .draining ∨ (∃ p, s.ports.get p ≠ .idle ∧ s.ports.get p ≠ .reset) ∨ s.queue ≠ []
        ∨ (∃ p, s.staging.get p ≠ none) ∨ (∃ i, (s.slots.get i).occupant ≠ none)) →
      exec .drainCompletion s = .next { s with outs := [] })

/-- PRESET_ASSERT (R4, R46, R65, R66, R100, R127): port p enters Reset without a response, its line set is Empty, its claim state
and counter are cleared, it leaves the waiting list, and its issued reads become discarded operations with their request,
generation and timer as they were. Nothing else of the part changes: the other ports, line sets and operations, the queue, the
staging, the pointers and every other field stay, and the event ends as every event does; a first member's reset is followed by
a pass (R4). A request the link presents is kept or withdrawn, the master's matter (R116, log entry 15). While RESET is asserted
the line alone changes (R131), and a line asserted already has no assertion (the model's choice, log entry 13). -/
def Obligations.PresetAssertResetsOnePort : Prop :=
  (∀ (p : Port) (s : State), s.presetLines.get p = false → s.resetLine = false → ClaimLaw s →
    ∃ t,
      exec (.presetAssert p) s =
        .next (finishEvent (if s.waiting.head? = some p then spacePass t else t))
      ∧ (Quiet s → exec (.presetAssert p) s = .next (if s.waiting.head? = some p then spacePass t else t))
      ∧ t =
        { s with
          outs := []
          ports := s.ports.set p .reset
          presetLines := s.presetLines.set p true
          lineSets := s.lineSets.set p LineSet.allEmpty
          claimTable := t.claimTable
          claimStatus := s.claimStatus.set p .none
          writeCounter := s.writeCounter.set p 0
          waiting := s.waiting.filter fun q => decide (q ≠ p)
          slots := t.slots
          links := t.links
          freeCount := t.freeCount }
      ∧ (∀ c, t.claimTable.get c =
        match s.claimTable.get c with
        | some cl => if cl.owner = p then none else some cl
        | none => none)
      ∧ (∀ i, t.slots.get i =
        { s.slots.get i with
          occupant :=
            match (s.slots.get i).occupant with
            | some o =>
              some ⟨match o.owner with
                | .fill q e => if q = p then .discarded else .fill q e
                | .pass q => if q = p then .discarded else .pass q
                | x => x, o.req, o.gen, o.timer⟩
            | none => none })
      ∧ (s.links.get p = none → t.links = s.links ∧ t.freeCount = s.freeCount)
      ∧ (s.links.get p ≠ none →
        (t.links = s.links ∨ t.links = s.links.set p none) ∧ t.freeCount = s.freeCount + 1))
  ∧ ∀ (p : Port) (s : State),
    (s.presetLines.get p = false → s.resetLine = true →
      exec (.presetAssert p) s = .next { s with outs := [], presetLines := s.presetLines.set p true })
    ∧ (s.presetLines.get p = true → exec (.presetAssert p) s = .next { s with outs := [] })

/-- PRESET_RELEASE (R130, R120): the port becomes Idle, and the event ends as every event does. In Serving a request its link
presents is accepted in the same event, and without one nothing else changes, whatever the links of ports hold that cannot
accept, such as a second port in Reset. In Loading and in Draining every request stays on its link; in Draining the event ends with
the test that DRAIN_COMPLETION makes. While RESET is asserted, with the port not in Reset, the line alone changes (R131), and a
line not asserted has no release (the model's choice, log entry 13). -/
def Obligations.PresetReleaseMakesThePortIdle : Prop :=
  (∀ (p : Port) (s : State), s.presetLines.get p = true → s.ports.get p = .reset → s.mode = .serving →
    (∀ q, q ≠ p → ¬ ReadyToAccept q s) →
    (s.links.get p = none →
      exec (.presetRelease p) s =
        .next { s with outs := [], ports := s.ports.set p .idle, presetLines := s.presetLines.set p false })
    ∧ (∀ r, s.links.get p = some r →
      exec (.presetRelease p) s =
        .next (accept p r
          { s with
            outs := [], links := s.links.set p none
            ports := s.ports.set p .idle, presetLines := s.presetLines.set p false })))
  ∧ (∀ (p : Port) (s : State), s.presetLines.get p = true →
    exec (.presetRelease p) s =
      .next (finishEvent
        { s with
          outs := []
          ports := if s.ports.get p = .reset then s.ports.set p .idle else s.ports
          presetLines := s.presetLines.set p false }))
  ∧ ∀ (p : Port) (s t : State),
    t = { s with outs := [], ports := s.ports.set p .idle, presetLines := s.presetLines.set p false } →
    (s.presetLines.get p = true → s.ports.get p = .reset → s.mode = .loading → exec (.presetRelease p) s = .next t)
    ∧ (s.presetLines.get p = true → s.ports.get p = .reset → s.mode = .draining →
      ∃ u, exec (.presetRelease p) s = .next u ∧ exec .drainCompletion t = .next u ∧ u.links = s.links)
    ∧ (s.presetLines.get p = true → s.ports.get p ≠ .reset → s.mode = .loading →
      exec (.presetRelease p) s = .next { s with outs := [], presetLines := s.presetLines.set p false })
    ∧ (s.presetLines.get p = false → exec (.presetRelease p) s = .next { s with outs := [] })

/-! ### Laws that every step keeps -/

/-- Every law below holds while RESET is asserted. -/
def Obligations.ResetStateKeepsTheLaws : Prop :=
  RoomLaw State.reset ∧ WaitingLaw State.reset ∧ commitsPaired State.reset.queue = true ∧ ClaimLaw State.reset
    ∧ NoClaimOutsideServing State.reset ∧ LineSetLaw State.reset ∧ ReadHoldLaw State.reset
    ∧ LiveTagsNotStale State.reset ∧ LoaderLaw State.reset ∧ PresetLaw State.reset

/-- R3, R9: the queue holds at most 16 entries, and at most 14 of them are of kinds other than FaultPost, at every moment; and
every Commit entry is immediately followed by the Outcome entry of the same port. -/
def Obligations.StepKeepsTheQueueLaws : Prop :=
  ∀ s t : State, step s = .next t →
    (RoomLaw s → RoomLaw t) ∧ (commitsPaired s.queue = true → commitsPaired t.queue = true)

/-- R4: each port appears in the waiting list at most once, and exactly while it is in SpaceWait. -/
def Obligations.StepKeepsTheWaitingList : Prop :=
  ∀ s t : State, WaitingLaw s → step s = .next t → WaitingLaw t

/-- R27: a port's claim status is Held exactly when one Claim Table entry names that port as owner, and that entry is the one
its status names. R44: while the device is Draining or Loading, the Claim Table is empty. -/
def Obligations.StepKeepsTheClaimLaws : Prop :=
  ∀ s t : State, step s = .next t →
    (ClaimLaw s → ClaimLaw t) ∧ (LoaderLaw s → NoClaimOutsideServing s → NoClaimOutsideServing t)

/-- R86: the generation of an operation in flight is never among its slot's stale generations. R98, R169: outside Loading the
loader neither offers a read nor has one in flight, and it never has two in hand. -/
def Obligations.StepKeepsTheSlotLaws : Prop :=
  ∀ s t : State, step s = .next t →
    (LiveTagsNotStale s → LiveTagsNotStale t) ∧ (LoaderLaw s → LoaderLaw t)

/-- R51, R52: no line set holds two non-Empty entries on one line, and its recency order lists its Valid and Prefetched entries,
each once. -/
def Obligations.StepKeepsTheLineSetLaw : Prop :=
  ∀ s t : State, LineSetLaw s → step s = .next t → LineSetLaw t

/-- R50, R60, R85, R92: the line of every entry is a line address; no entry is Valid or Prefetched on a line the Write Queue
holds an entry on; at most one operation in flight belongs to the Write Queue, and it is the issued head's; and no write or
locked update to a line is in flight while a read of that line is. -/
def Obligations.StepKeepsTheReadHoldLaw : Prop :=
  ∀ s t : State, ReadHoldLaw s → step s = .next t → ReadHoldLaw t

/-- R119, R129: while RESET is released, a port is in Reset exactly while its PRESETp is asserted. -/
def Obligations.StepKeepsThePresetLaw : Prop :=
  ∀ s t : State, PresetLaw s → step s = .next t → PresetLaw t

/-! ### Rules over all commands -/

/-- The transitions of the device mode (R164): Serving is left by a RELOAD edge or RESET alone, Serving is reached from Loading
alone, and Draining from Serving by a RELOAD edge alone. The configuration, and with it the Window Table and the installed
parameters, changes in Loading or with RESET and nowhere else (R114). A step on an empty command queue, where a due expiry is
taken (the model's choice, log entry 5), leaves Serving in Serving, reaches Serving from Loading alone, enters no drain, and
changes the configuration in Loading alone. -/
def Obligations.ModeAndConfigurationMoveAsListed : Prop :=
  (∀ (c : Instr) (s t : State), LoaderLaw s → exec c s = .next t →
    (s.mode = .serving → t.mode ≠ .serving → c = .reloadEdge ∨ c = .resetAssert ∨ c = .resetRelease)
    ∧ (t.mode = .serving → s.mode = .serving ∨ s.mode = .loading)
    ∧ (t.mode = .draining → s.mode = .draining ∨ (s.mode = .serving ∧ c = .reloadEdge))
    ∧ (t.config ≠ s.config → s.mode = .loading ∨ c = .resetAssert ∨ c = .resetRelease))
  ∧ ∀ s t : State, LoaderLaw s → s.pending = [] → step s = .next t →
    (s.mode = .serving → t.mode = .serving)
    ∧ (t.mode = .serving → s.mode = .serving ∨ s.mode = .loading)
    ∧ (t.mode = .draining → s.mode = .draining)
    ∧ (t.config ≠ s.config → s.mode = .loading)
end

