-- ==== Sys2Proof/Laws/State.lean ====
section
/-! SUPPORT. The small lemmas of the state record: one for each field and each named update, and those of the records with
one value per port or per place. -/

namespace Sys2Proof

/-! ### One value per port, one value per place -/

@[simp] theorem PerPort.get_set_same {α : Type} (v : PerPort α) (p : Port) (x : α) : (v.set p x).get p = x := by
  cases p <;> rfl

theorem PerPort.get_set_other {α : Type} (v : PerPort α) {p q : Port} (x : α) (h : q ≠ p) :
    (v.set p x).get q = v.get q := by
  cases p <;> cases q <;> first | rfl | exact absurd rfl h

theorem PerPort.get_set {α : Type} (v : PerPort α) (p q : Port) (x : α) :
    (v.set p x).get q = if q = p then x else v.get q := by
  cases p <;> cases q <;> rfl

@[simp] theorem PerPort.get_map {α β : Type} (f : α → β) (v : PerPort α) (p : Port) : (v.map f).get p = f (v.get p) := by
  cases p <;> rfl

@[simp] theorem PerPort.get_const {α : Type} (x : α) (p : Port) : (PerPort.const x).get p = x := by
  cases p <;> rfl

@[simp] theorem PerPort.set_get_same {α : Type} (v : PerPort α) (p : Port) : v.set p (v.get p) = v := by
  cases p <;> rfl

theorem PerPort.ext_get {α : Type} {v w : PerPort α} (h : ∀ p, v.get p = w.get p) : v = w := by
  cases v
  cases w
  have h0 := h .u0
  have h1 := h .u1
  have h2 := h .u2
  have h3 := h .u3
  have h4 := h .u4
  have h5 := h .u5
  simp only [PerPort.get] at h0 h1 h2 h3 h4 h5
  subst h0 h1 h2 h3 h4 h5
  rfl

@[simp] theorem Quad.get_set_same {α : Type} (v : Quad α) (i : Ix4) (x : α) : (v.set i x).get i = x := by
  cases i <;> rfl

theorem Quad.get_set_other {α : Type} (v : Quad α) {i j : Ix4} (x : α) (h : j ≠ i) :
    (v.set i x).get j = v.get j := by
  cases i <;> cases j <;> first | rfl | exact absurd rfl h

theorem Quad.get_set {α : Type} (v : Quad α) (i j : Ix4) (x : α) :
    (v.set i x).get j = if j = i then x else v.get j := by
  cases i <;> cases j <;> rfl

@[simp] theorem Quad.get_map {α β : Type} (f : α → β) (v : Quad α) (i : Ix4) : (v.map f).get i = f (v.get i) := by
  cases i <;> rfl

@[simp] theorem Quad.get_const {α : Type} (x : α) (i : Ix4) : (Quad.const x).get i = x := by
  cases i <;> rfl

@[simp] theorem Quad.set_get_same {α : Type} (v : Quad α) (i : Ix4) : v.set i (v.get i) = v := by
  cases i <;> rfl

@[simp] theorem Port.mem_all (p : Port) : p ∈ Port.all := by
  cases p <;> simp [Port.all]

@[simp] theorem Ix4.mem_all (i : Ix4) : i ∈ Ix4.all := by
  cases i <;> simp [Ix4.all]

end Sys2Proof

namespace Sys2Proof.Machine

/-! ### setPort -/

@[simp] theorem State.setPort_ports (s : State) (p : Port) (x : PortState) : (s.setPort p x).ports = s.ports.set p x := rfl
@[simp] theorem State.setPort_links (s : State) (p : Port) (x : PortState) : (s.setPort p x).links = s.links := rfl
@[simp] theorem State.setPort_lineSets (s : State) (p : Port) (x : PortState) : (s.setPort p x).lineSets = s.lineSets := rfl
@[simp] theorem State.setPort_queue (s : State) (p : Port) (x : PortState) : (s.setPort p x).queue = s.queue := rfl
@[simp] theorem State.setPort_nextSerial (s : State) (p : Port) (x : PortState) : (s.setPort p x).nextSerial = s.nextSerial := rfl
@[simp] theorem State.setPort_waiting (s : State) (p : Port) (x : PortState) : (s.setPort p x).waiting = s.waiting := rfl
@[simp] theorem State.setPort_claimTable (s : State) (p : Port) (x : PortState) : (s.setPort p x).claimTable = s.claimTable := rfl
@[simp] theorem State.setPort_claimStatus (s : State) (p : Port) (x : PortState) : (s.setPort p x).claimStatus = s.claimStatus := rfl
@[simp] theorem State.setPort_armingCount (s : State) (p : Port) (x : PortState) : (s.setPort p x).armingCount = s.armingCount := rfl
@[simp] theorem State.setPort_writeCounter (s : State) (p : Port) (x : PortState) : (s.setPort p x).writeCounter = s.writeCounter := rfl
@[simp] theorem State.setPort_engine (s : State) (p : Port) (x : PortState) : (s.setPort p x).engine = s.engine := rfl
@[simp] theorem State.setPort_slots (s : State) (p : Port) (x : PortState) : (s.setPort p x).slots = s.slots := rfl
@[simp] theorem State.setPort_demandPtr (s : State) (p : Port) (x : PortState) : (s.setPort p x).demandPtr = s.demandPtr := rfl
@[simp] theorem State.setPort_prefetchPtr (s : State) (p : Port) (x : PortState) : (s.setPort p x).prefetchPtr = s.prefetchPtr := rfl
@[simp] theorem State.setPort_staging (s : State) (p : Port) (x : PortState) : (s.setPort p x).staging = s.staging := rfl
@[simp] theorem State.setPort_notifyMark (s : State) (p : Port) (x : PortState) : (s.setPort p x).notifyMark = s.notifyMark := rfl
@[simp] theorem State.setPort_recordLost (s : State) (p : Port) (x : PortState) : (s.setPort p x).recordLost = s.recordLost := rfl
@[simp] theorem State.setPort_mode (s : State) (p : Port) (x : PortState) : (s.setPort p x).mode = s.mode := rfl
@[simp] theorem State.setPort_config (s : State) (p : Port) (x : PortState) : (s.setPort p x).config = s.config := rfl
@[simp] theorem State.setPort_reloadLatch (s : State) (p : Port) (x : PortState) : (s.setPort p x).reloadLatch = s.reloadLatch := rfl
@[simp] theorem State.setPort_loader (s : State) (p : Port) (x : PortState) : (s.setPort p x).loader = s.loader := rfl
@[simp] theorem State.setPort_resetLine (s : State) (p : Port) (x : PortState) : (s.setPort p x).resetLine = s.resetLine := rfl
@[simp] theorem State.setPort_presetLines (s : State) (p : Port) (x : PortState) : (s.setPort p x).presetLines = s.presetLines := rfl
@[simp] theorem State.setPort_straps (s : State) (p : Port) (x : PortState) : (s.setPort p x).straps = s.straps := rfl
@[simp] theorem State.setPort_outs (s : State) (p : Port) (x : PortState) : (s.setPort p x).outs = s.outs := rfl
@[simp] theorem State.setPort_freeCount (s : State) (p : Port) (x : PortState) : (s.setPort p x).freeCount = s.freeCount := rfl
@[simp] theorem State.setPort_pending (s : State) (p : Port) (x : PortState) : (s.setPort p x).pending = s.pending := rfl

/-! ### setLink -/

@[simp] theorem State.setLink_ports (s : State) (p : Port) (x : Option Request) : (s.setLink p x).ports = s.ports := rfl
@[simp] theorem State.setLink_links (s : State) (p : Port) (x : Option Request) : (s.setLink p x).links = s.links.set p x := rfl
@[simp] theorem State.setLink_lineSets (s : State) (p : Port) (x : Option Request) : (s.setLink p x).lineSets = s.lineSets := rfl
@[simp] theorem State.setLink_queue (s : State) (p : Port) (x : Option Request) : (s.setLink p x).queue = s.queue := rfl
@[simp] theorem State.setLink_nextSerial (s : State) (p : Port) (x : Option Request) : (s.setLink p x).nextSerial = s.nextSerial := rfl
@[simp] theorem State.setLink_waiting (s : State) (p : Port) (x : Option Request) : (s.setLink p x).waiting = s.waiting := rfl
@[simp] theorem State.setLink_claimTable (s : State) (p : Port) (x : Option Request) : (s.setLink p x).claimTable = s.claimTable := rfl
@[simp] theorem State.setLink_claimStatus (s : State) (p : Port) (x : Option Request) : (s.setLink p x).claimStatus = s.claimStatus := rfl
@[simp] theorem State.setLink_armingCount (s : State) (p : Port) (x : Option Request) : (s.setLink p x).armingCount = s.armingCount := rfl
@[simp] theorem State.setLink_writeCounter (s : State) (p : Port) (x : Option Request) : (s.setLink p x).writeCounter = s.writeCounter := rfl
@[simp] theorem State.setLink_engine (s : State) (p : Port) (x : Option Request) : (s.setLink p x).engine = s.engine := rfl
@[simp] theorem State.setLink_slots (s : State) (p : Port) (x : Option Request) : (s.setLink p x).slots = s.slots := rfl
@[simp] theorem State.setLink_demandPtr (s : State) (p : Port) (x : Option Request) : (s.setLink p x).demandPtr = s.demandPtr := rfl
@[simp] theorem State.setLink_prefetchPtr (s : State) (p : Port) (x : Option Request) : (s.setLink p x).prefetchPtr = s.prefetchPtr := rfl
@[simp] theorem State.setLink_staging (s : State) (p : Port) (x : Option Request) : (s.setLink p x).staging = s.staging := rfl
@[simp] theorem State.setLink_notifyMark (s : State) (p : Port) (x : Option Request) : (s.setLink p x).notifyMark = s.notifyMark := rfl
@[simp] theorem State.setLink_recordLost (s : State) (p : Port) (x : Option Request) : (s.setLink p x).recordLost = s.recordLost := rfl
@[simp] theorem State.setLink_mode (s : State) (p : Port) (x : Option Request) : (s.setLink p x).mode = s.mode := rfl
@[simp] theorem State.setLink_config (s : State) (p : Port) (x : Option Request) : (s.setLink p x).config = s.config := rfl
@[simp] theorem State.setLink_reloadLatch (s : State) (p : Port) (x : Option Request) : (s.setLink p x).reloadLatch = s.reloadLatch := rfl
@[simp] theorem State.setLink_loader (s : State) (p : Port) (x : Option Request) : (s.setLink p x).loader = s.loader := rfl
@[simp] theorem State.setLink_resetLine (s : State) (p : Port) (x : Option Request) : (s.setLink p x).resetLine = s.resetLine := rfl
@[simp] theorem State.setLink_presetLines (s : State) (p : Port) (x : Option Request) : (s.setLink p x).presetLines = s.presetLines := rfl
@[simp] theorem State.setLink_straps (s : State) (p : Port) (x : Option Request) : (s.setLink p x).straps = s.straps := rfl
@[simp] theorem State.setLink_outs (s : State) (p : Port) (x : Option Request) : (s.setLink p x).outs = s.outs := rfl
@[simp] theorem State.setLink_freeCount (s : State) (p : Port) (x : Option Request) : (s.setLink p x).freeCount = s.freeCount := rfl
@[simp] theorem State.setLink_pending (s : State) (p : Port) (x : Option Request) : (s.setLink p x).pending = s.pending := rfl

/-! ### setLineSet -/

@[simp] theorem State.setLineSet_ports (s : State) (p : Port) (x : LineSet) : (s.setLineSet p x).ports = s.ports := rfl
@[simp] theorem State.setLineSet_links (s : State) (p : Port) (x : LineSet) : (s.setLineSet p x).links = s.links := rfl
@[simp] theorem State.setLineSet_lineSets (s : State) (p : Port) (x : LineSet) : (s.setLineSet p x).lineSets = s.lineSets.set p x := rfl
@[simp] theorem State.setLineSet_queue (s : State) (p : Port) (x : LineSet) : (s.setLineSet p x).queue = s.queue := rfl
@[simp] theorem State.setLineSet_nextSerial (s : State) (p : Port) (x : LineSet) : (s.setLineSet p x).nextSerial = s.nextSerial := rfl
@[simp] theorem State.setLineSet_waiting (s : State) (p : Port) (x : LineSet) : (s.setLineSet p x).waiting = s.waiting := rfl
@[simp] theorem State.setLineSet_claimTable (s : State) (p : Port) (x : LineSet) : (s.setLineSet p x).claimTable = s.claimTable := rfl
@[simp] theorem State.setLineSet_claimStatus (s : State) (p : Port) (x : LineSet) : (s.setLineSet p x).claimStatus = s.claimStatus := rfl
@[simp] theorem State.setLineSet_armingCount (s : State) (p : Port) (x : LineSet) : (s.setLineSet p x).armingCount = s.armingCount := rfl
@[simp] theorem State.setLineSet_writeCounter (s : State) (p : Port) (x : LineSet) : (s.setLineSet p x).writeCounter = s.writeCounter := rfl
@[simp] theorem State.setLineSet_engine (s : State) (p : Port) (x : LineSet) : (s.setLineSet p x).engine = s.engine := rfl
@[simp] theorem State.setLineSet_slots (s : State) (p : Port) (x : LineSet) : (s.setLineSet p x).slots = s.slots := rfl
@[simp] theorem State.setLineSet_demandPtr (s : State) (p : Port) (x : LineSet) : (s.setLineSet p x).demandPtr = s.demandPtr := rfl
@[simp] theorem State.setLineSet_prefetchPtr (s : State) (p : Port) (x : LineSet) : (s.setLineSet p x).prefetchPtr = s.prefetchPtr := rfl
@[simp] theorem State.setLineSet_staging (s : State) (p : Port) (x : LineSet) : (s.setLineSet p x).staging = s.staging := rfl
@[simp] theorem State.setLineSet_notifyMark (s : State) (p : Port) (x : LineSet) : (s.setLineSet p x).notifyMark = s.notifyMark := rfl
@[simp] theorem State.setLineSet_recordLost (s : State) (p : Port) (x : LineSet) : (s.setLineSet p x).recordLost = s.recordLost := rfl
@[simp] theorem State.setLineSet_mode (s : State) (p : Port) (x : LineSet) : (s.setLineSet p x).mode = s.mode := rfl
@[simp] theorem State.setLineSet_config (s : State) (p : Port) (x : LineSet) : (s.setLineSet p x).config = s.config := rfl
@[simp] theorem State.setLineSet_reloadLatch (s : State) (p : Port) (x : LineSet) : (s.setLineSet p x).reloadLatch = s.reloadLatch := rfl
@[simp] theorem State.setLineSet_loader (s : State) (p : Port) (x : LineSet) : (s.setLineSet p x).loader = s.loader := rfl
@[simp] theorem State.setLineSet_resetLine (s : State) (p : Port) (x : LineSet) : (s.setLineSet p x).resetLine = s.resetLine := rfl
@[simp] theorem State.setLineSet_presetLines (s : State) (p : Port) (x : LineSet) : (s.setLineSet p x).presetLines = s.presetLines := rfl
@[simp] theorem State.setLineSet_straps (s : State) (p : Port) (x : LineSet) : (s.setLineSet p x).straps = s.straps := rfl
@[simp] theorem State.setLineSet_outs (s : State) (p : Port) (x : LineSet) : (s.setLineSet p x).outs = s.outs := rfl
@[simp] theorem State.setLineSet_freeCount (s : State) (p : Port) (x : LineSet) : (s.setLineSet p x).freeCount = s.freeCount := rfl
@[simp] theorem State.setLineSet_pending (s : State) (p : Port) (x : LineSet) : (s.setLineSet p x).pending = s.pending := rfl

/-! ### setStatus -/

@[simp] theorem State.setStatus_ports (s : State) (p : Port) (x : ClaimStatus) : (s.setStatus p x).ports = s.ports := rfl
@[simp] theorem State.setStatus_links (s : State) (p : Port) (x : ClaimStatus) : (s.setStatus p x).links = s.links := rfl
@[simp] theorem State.setStatus_lineSets (s : State) (p : Port) (x : ClaimStatus) : (s.setStatus p x).lineSets = s.lineSets := rfl
@[simp] theorem State.setStatus_queue (s : State) (p : Port) (x : ClaimStatus) : (s.setStatus p x).queue = s.queue := rfl
@[simp] theorem State.setStatus_nextSerial (s : State) (p : Port) (x : ClaimStatus) : (s.setStatus p x).nextSerial = s.nextSerial := rfl
@[simp] theorem State.setStatus_waiting (s : State) (p : Port) (x : ClaimStatus) : (s.setStatus p x).waiting = s.waiting := rfl
@[simp] theorem State.setStatus_claimTable (s : State) (p : Port) (x : ClaimStatus) : (s.setStatus p x).claimTable = s.claimTable := rfl
@[simp] theorem State.setStatus_claimStatus (s : State) (p : Port) (x : ClaimStatus) : (s.setStatus p x).claimStatus = s.claimStatus.set p x := rfl
@[simp] theorem State.setStatus_armingCount (s : State) (p : Port) (x : ClaimStatus) : (s.setStatus p x).armingCount = s.armingCount := rfl
@[simp] theorem State.setStatus_writeCounter (s : State) (p : Port) (x : ClaimStatus) : (s.setStatus p x).writeCounter = s.writeCounter := rfl
@[simp] theorem State.setStatus_engine (s : State) (p : Port) (x : ClaimStatus) : (s.setStatus p x).engine = s.engine := rfl
@[simp] theorem State.setStatus_slots (s : State) (p : Port) (x : ClaimStatus) : (s.setStatus p x).slots = s.slots := rfl
@[simp] theorem State.setStatus_demandPtr (s : State) (p : Port) (x : ClaimStatus) : (s.setStatus p x).demandPtr = s.demandPtr := rfl
@[simp] theorem State.setStatus_prefetchPtr (s : State) (p : Port) (x : ClaimStatus) : (s.setStatus p x).prefetchPtr = s.prefetchPtr := rfl
@[simp] theorem State.setStatus_staging (s : State) (p : Port) (x : ClaimStatus) : (s.setStatus p x).staging = s.staging := rfl
@[simp] theorem State.setStatus_notifyMark (s : State) (p : Port) (x : ClaimStatus) : (s.setStatus p x).notifyMark = s.notifyMark := rfl
@[simp] theorem State.setStatus_recordLost (s : State) (p : Port) (x : ClaimStatus) : (s.setStatus p x).recordLost = s.recordLost := rfl
@[simp] theorem State.setStatus_mode (s : State) (p : Port) (x : ClaimStatus) : (s.setStatus p x).mode = s.mode := rfl
@[simp] theorem State.setStatus_config (s : State) (p : Port) (x : ClaimStatus) : (s.setStatus p x).config = s.config := rfl
@[simp] theorem State.setStatus_reloadLatch (s : State) (p : Port) (x : ClaimStatus) : (s.setStatus p x).reloadLatch = s.reloadLatch := rfl
@[simp] theorem State.setStatus_loader (s : State) (p : Port) (x : ClaimStatus) : (s.setStatus p x).loader = s.loader := rfl
@[simp] theorem State.setStatus_resetLine (s : State) (p : Port) (x : ClaimStatus) : (s.setStatus p x).resetLine = s.resetLine := rfl
@[simp] theorem State.setStatus_presetLines (s : State) (p : Port) (x : ClaimStatus) : (s.setStatus p x).presetLines = s.presetLines := rfl
@[simp] theorem State.setStatus_straps (s : State) (p : Port) (x : ClaimStatus) : (s.setStatus p x).straps = s.straps := rfl
@[simp] theorem State.setStatus_outs (s : State) (p : Port) (x : ClaimStatus) : (s.setStatus p x).outs = s.outs := rfl
@[simp] theorem State.setStatus_freeCount (s : State) (p : Port) (x : ClaimStatus) : (s.setStatus p x).freeCount = s.freeCount := rfl
@[simp] theorem State.setStatus_pending (s : State) (p : Port) (x : ClaimStatus) : (s.setStatus p x).pending = s.pending := rfl

/-! ### setClaim -/

@[simp] theorem State.setClaim_ports (s : State) (c : Ix4) (x : Option Claim) : (s.setClaim c x).ports = s.ports := rfl
@[simp] theorem State.setClaim_links (s : State) (c : Ix4) (x : Option Claim) : (s.setClaim c x).links = s.links := rfl
@[simp] theorem State.setClaim_lineSets (s : State) (c : Ix4) (x : Option Claim) : (s.setClaim c x).lineSets = s.lineSets := rfl
@[simp] theorem State.setClaim_queue (s : State) (c : Ix4) (x : Option Claim) : (s.setClaim c x).queue = s.queue := rfl
@[simp] theorem State.setClaim_nextSerial (s : State) (c : Ix4) (x : Option Claim) : (s.setClaim c x).nextSerial = s.nextSerial := rfl
@[simp] theorem State.setClaim_waiting (s : State) (c : Ix4) (x : Option Claim) : (s.setClaim c x).waiting = s.waiting := rfl
@[simp] theorem State.setClaim_claimTable (s : State) (c : Ix4) (x : Option Claim) : (s.setClaim c x).claimTable = s.claimTable.set c x := rfl
@[simp] theorem State.setClaim_claimStatus (s : State) (c : Ix4) (x : Option Claim) : (s.setClaim c x).claimStatus = s.claimStatus := rfl
@[simp] theorem State.setClaim_armingCount (s : State) (c : Ix4) (x : Option Claim) : (s.setClaim c x).armingCount = s.armingCount := rfl
@[simp] theorem State.setClaim_writeCounter (s : State) (c : Ix4) (x : Option Claim) : (s.setClaim c x).writeCounter = s.writeCounter := rfl
@[simp] theorem State.setClaim_engine (s : State) (c : Ix4) (x : Option Claim) : (s.setClaim c x).engine = s.engine := rfl
@[simp] theorem State.setClaim_slots (s : State) (c : Ix4) (x : Option Claim) : (s.setClaim c x).slots = s.slots := rfl
@[simp] theorem State.setClaim_demandPtr (s : State) (c : Ix4) (x : Option Claim) : (s.setClaim c x).demandPtr = s.demandPtr := rfl
@[simp] theorem State.setClaim_prefetchPtr (s : State) (c : Ix4) (x : Option Claim) : (s.setClaim c x).prefetchPtr = s.prefetchPtr := rfl
@[simp] theorem State.setClaim_staging (s : State) (c : Ix4) (x : Option Claim) : (s.setClaim c x).staging = s.staging := rfl
@[simp] theorem State.setClaim_notifyMark (s : State) (c : Ix4) (x : Option Claim) : (s.setClaim c x).notifyMark = s.notifyMark := rfl
@[simp] theorem State.setClaim_recordLost (s : State) (c : Ix4) (x : Option Claim) : (s.setClaim c x).recordLost = s.recordLost := rfl
@[simp] theorem State.setClaim_mode (s : State) (c : Ix4) (x : Option Claim) : (s.setClaim c x).mode = s.mode := rfl
@[simp] theorem State.setClaim_config (s : State) (c : Ix4) (x : Option Claim) : (s.setClaim c x).config = s.config := rfl
@[simp] theorem State.setClaim_reloadLatch (s : State) (c : Ix4) (x : Option Claim) : (s.setClaim c x).reloadLatch = s.reloadLatch := rfl
@[simp] theorem State.setClaim_loader (s : State) (c : Ix4) (x : Option Claim) : (s.setClaim c x).loader = s.loader := rfl
@[simp] theorem State.setClaim_resetLine (s : State) (c : Ix4) (x : Option Claim) : (s.setClaim c x).resetLine = s.resetLine := rfl
@[simp] theorem State.setClaim_presetLines (s : State) (c : Ix4) (x : Option Claim) : (s.setClaim c x).presetLines = s.presetLines := rfl
@[simp] theorem State.setClaim_straps (s : State) (c : Ix4) (x : Option Claim) : (s.setClaim c x).straps = s.straps := rfl
@[simp] theorem State.setClaim_outs (s : State) (c : Ix4) (x : Option Claim) : (s.setClaim c x).outs = s.outs := rfl
@[simp] theorem State.setClaim_freeCount (s : State) (c : Ix4) (x : Option Claim) : (s.setClaim c x).freeCount = s.freeCount := rfl
@[simp] theorem State.setClaim_pending (s : State) (c : Ix4) (x : Option Claim) : (s.setClaim c x).pending = s.pending := rfl

/-! ### setCounter -/

@[simp] theorem State.setCounter_ports (s : State) (p : Port) (x : BitVec 16) : (s.setCounter p x).ports = s.ports := rfl
@[simp] theorem State.setCounter_links (s : State) (p : Port) (x : BitVec 16) : (s.setCounter p x).links = s.links := rfl
@[simp] theorem State.setCounter_lineSets (s : State) (p : Port) (x : BitVec 16) : (s.setCounter p x).lineSets = s.lineSets := rfl
@[simp] theorem State.setCounter_queue (s : State) (p : Port) (x : BitVec 16) : (s.setCounter p x).queue = s.queue := rfl
@[simp] theorem State.setCounter_nextSerial (s : State) (p : Port) (x : BitVec 16) : (s.setCounter p x).nextSerial = s.nextSerial := rfl
@[simp] theorem State.setCounter_waiting (s : State) (p : Port) (x : BitVec 16) : (s.setCounter p x).waiting = s.waiting := rfl
@[simp] theorem State.setCounter_claimTable (s : State) (p : Port) (x : BitVec 16) : (s.setCounter p x).claimTable = s.claimTable := rfl
@[simp] theorem State.setCounter_claimStatus (s : State) (p : Port) (x : BitVec 16) : (s.setCounter p x).claimStatus = s.claimStatus := rfl
@[simp] theorem State.setCounter_armingCount (s : State) (p : Port) (x : BitVec 16) : (s.setCounter p x).armingCount = s.armingCount := rfl
@[simp] theorem State.setCounter_writeCounter (s : State) (p : Port) (x : BitVec 16) : (s.setCounter p x).writeCounter = s.writeCounter.set p x := rfl
@[simp] theorem State.setCounter_engine (s : State) (p : Port) (x : BitVec 16) : (s.setCounter p x).engine = s.engine := rfl
@[simp] theorem State.setCounter_slots (s : State) (p : Port) (x : BitVec 16) : (s.setCounter p x).slots = s.slots := rfl
@[simp] theorem State.setCounter_demandPtr (s : State) (p : Port) (x : BitVec 16) : (s.setCounter p x).demandPtr = s.demandPtr := rfl
@[simp] theorem State.setCounter_prefetchPtr (s : State) (p : Port) (x : BitVec 16) : (s.setCounter p x).prefetchPtr = s.prefetchPtr := rfl
@[simp] theorem State.setCounter_staging (s : State) (p : Port) (x : BitVec 16) : (s.setCounter p x).staging = s.staging := rfl
@[simp] theorem State.setCounter_notifyMark (s : State) (p : Port) (x : BitVec 16) : (s.setCounter p x).notifyMark = s.notifyMark := rfl
@[simp] theorem State.setCounter_recordLost (s : State) (p : Port) (x : BitVec 16) : (s.setCounter p x).recordLost = s.recordLost := rfl
@[simp] theorem State.setCounter_mode (s : State) (p : Port) (x : BitVec 16) : (s.setCounter p x).mode = s.mode := rfl
@[simp] theorem State.setCounter_config (s : State) (p : Port) (x : BitVec 16) : (s.setCounter p x).config = s.config := rfl
@[simp] theorem State.setCounter_reloadLatch (s : State) (p : Port) (x : BitVec 16) : (s.setCounter p x).reloadLatch = s.reloadLatch := rfl
@[simp] theorem State.setCounter_loader (s : State) (p : Port) (x : BitVec 16) : (s.setCounter p x).loader = s.loader := rfl
@[simp] theorem State.setCounter_resetLine (s : State) (p : Port) (x : BitVec 16) : (s.setCounter p x).resetLine = s.resetLine := rfl
@[simp] theorem State.setCounter_presetLines (s : State) (p : Port) (x : BitVec 16) : (s.setCounter p x).presetLines = s.presetLines := rfl
@[simp] theorem State.setCounter_straps (s : State) (p : Port) (x : BitVec 16) : (s.setCounter p x).straps = s.straps := rfl
@[simp] theorem State.setCounter_outs (s : State) (p : Port) (x : BitVec 16) : (s.setCounter p x).outs = s.outs := rfl
@[simp] theorem State.setCounter_freeCount (s : State) (p : Port) (x : BitVec 16) : (s.setCounter p x).freeCount = s.freeCount := rfl
@[simp] theorem State.setCounter_pending (s : State) (p : Port) (x : BitVec 16) : (s.setCounter p x).pending = s.pending := rfl

/-! ### setStaging -/

@[simp] theorem State.setStaging_ports (s : State) (p : Port) (x : Option FaultContent) : (s.setStaging p x).ports = s.ports := rfl
@[simp] theorem State.setStaging_links (s : State) (p : Port) (x : Option FaultContent) : (s.setStaging p x).links = s.links := rfl
@[simp] theorem State.setStaging_lineSets (s : State) (p : Port) (x : Option FaultContent) : (s.setStaging p x).lineSets = s.lineSets := rfl
@[simp] theorem State.setStaging_queue (s : State) (p : Port) (x : Option FaultContent) : (s.setStaging p x).queue = s.queue := rfl
@[simp] theorem State.setStaging_nextSerial (s : State) (p : Port) (x : Option FaultContent) : (s.setStaging p x).nextSerial = s.nextSerial := rfl
@[simp] theorem State.setStaging_waiting (s : State) (p : Port) (x : Option FaultContent) : (s.setStaging p x).waiting = s.waiting := rfl
@[simp] theorem State.setStaging_claimTable (s : State) (p : Port) (x : Option FaultContent) : (s.setStaging p x).claimTable = s.claimTable := rfl
@[simp] theorem State.setStaging_claimStatus (s : State) (p : Port) (x : Option FaultContent) : (s.setStaging p x).claimStatus = s.claimStatus := rfl
@[simp] theorem State.setStaging_armingCount (s : State) (p : Port) (x : Option FaultContent) : (s.setStaging p x).armingCount = s.armingCount := rfl
@[simp] theorem State.setStaging_writeCounter (s : State) (p : Port) (x : Option FaultContent) : (s.setStaging p x).writeCounter = s.writeCounter := rfl
@[simp] theorem State.setStaging_engine (s : State) (p : Port) (x : Option FaultContent) : (s.setStaging p x).engine = s.engine := rfl
@[simp] theorem State.setStaging_slots (s : State) (p : Port) (x : Option FaultContent) : (s.setStaging p x).slots = s.slots := rfl
@[simp] theorem State.setStaging_demandPtr (s : State) (p : Port) (x : Option FaultContent) : (s.setStaging p x).demandPtr = s.demandPtr := rfl
@[simp] theorem State.setStaging_prefetchPtr (s : State) (p : Port) (x : Option FaultContent) : (s.setStaging p x).prefetchPtr = s.prefetchPtr := rfl
@[simp] theorem State.setStaging_staging (s : State) (p : Port) (x : Option FaultContent) : (s.setStaging p x).staging = s.staging.set p x := rfl
@[simp] theorem State.setStaging_notifyMark (s : State) (p : Port) (x : Option FaultContent) : (s.setStaging p x).notifyMark = s.notifyMark := rfl
@[simp] theorem State.setStaging_recordLost (s : State) (p : Port) (x : Option FaultContent) : (s.setStaging p x).recordLost = s.recordLost := rfl
@[simp] theorem State.setStaging_mode (s : State) (p : Port) (x : Option FaultContent) : (s.setStaging p x).mode = s.mode := rfl
@[simp] theorem State.setStaging_config (s : State) (p : Port) (x : Option FaultContent) : (s.setStaging p x).config = s.config := rfl
@[simp] theorem State.setStaging_reloadLatch (s : State) (p : Port) (x : Option FaultContent) : (s.setStaging p x).reloadLatch = s.reloadLatch := rfl
@[simp] theorem State.setStaging_loader (s : State) (p : Port) (x : Option FaultContent) : (s.setStaging p x).loader = s.loader := rfl
@[simp] theorem State.setStaging_resetLine (s : State) (p : Port) (x : Option FaultContent) : (s.setStaging p x).resetLine = s.resetLine := rfl
@[simp] theorem State.setStaging_presetLines (s : State) (p : Port) (x : Option FaultContent) : (s.setStaging p x).presetLines = s.presetLines := rfl
@[simp] theorem State.setStaging_straps (s : State) (p : Port) (x : Option FaultContent) : (s.setStaging p x).straps = s.straps := rfl
@[simp] theorem State.setStaging_outs (s : State) (p : Port) (x : Option FaultContent) : (s.setStaging p x).outs = s.outs := rfl
@[simp] theorem State.setStaging_freeCount (s : State) (p : Port) (x : Option FaultContent) : (s.setStaging p x).freeCount = s.freeCount := rfl
@[simp] theorem State.setStaging_pending (s : State) (p : Port) (x : Option FaultContent) : (s.setStaging p x).pending = s.pending := rfl

/-! ### setSlot -/

@[simp] theorem State.setSlot_ports (s : State) (i : Ix4) (x : Slot) : (s.setSlot i x).ports = s.ports := rfl
@[simp] theorem State.setSlot_links (s : State) (i : Ix4) (x : Slot) : (s.setSlot i x).links = s.links := rfl
@[simp] theorem State.setSlot_lineSets (s : State) (i : Ix4) (x : Slot) : (s.setSlot i x).lineSets = s.lineSets := rfl
@[simp] theorem State.setSlot_queue (s : State) (i : Ix4) (x : Slot) : (s.setSlot i x).queue = s.queue := rfl
@[simp] theorem State.setSlot_nextSerial (s : State) (i : Ix4) (x : Slot) : (s.setSlot i x).nextSerial = s.nextSerial := rfl
@[simp] theorem State.setSlot_waiting (s : State) (i : Ix4) (x : Slot) : (s.setSlot i x).waiting = s.waiting := rfl
@[simp] theorem State.setSlot_claimTable (s : State) (i : Ix4) (x : Slot) : (s.setSlot i x).claimTable = s.claimTable := rfl
@[simp] theorem State.setSlot_claimStatus (s : State) (i : Ix4) (x : Slot) : (s.setSlot i x).claimStatus = s.claimStatus := rfl
@[simp] theorem State.setSlot_armingCount (s : State) (i : Ix4) (x : Slot) : (s.setSlot i x).armingCount = s.armingCount := rfl
@[simp] theorem State.setSlot_writeCounter (s : State) (i : Ix4) (x : Slot) : (s.setSlot i x).writeCounter = s.writeCounter := rfl
@[simp] theorem State.setSlot_engine (s : State) (i : Ix4) (x : Slot) : (s.setSlot i x).engine = s.engine := rfl
@[simp] theorem State.setSlot_slots (s : State) (i : Ix4) (x : Slot) : (s.setSlot i x).slots = s.slots.set i x := rfl
@[simp] theorem State.setSlot_demandPtr (s : State) (i : Ix4) (x : Slot) : (s.setSlot i x).demandPtr = s.demandPtr := rfl
@[simp] theorem State.setSlot_prefetchPtr (s : State) (i : Ix4) (x : Slot) : (s.setSlot i x).prefetchPtr = s.prefetchPtr := rfl
@[simp] theorem State.setSlot_staging (s : State) (i : Ix4) (x : Slot) : (s.setSlot i x).staging = s.staging := rfl
@[simp] theorem State.setSlot_notifyMark (s : State) (i : Ix4) (x : Slot) : (s.setSlot i x).notifyMark = s.notifyMark := rfl
@[simp] theorem State.setSlot_recordLost (s : State) (i : Ix4) (x : Slot) : (s.setSlot i x).recordLost = s.recordLost := rfl
@[simp] theorem State.setSlot_mode (s : State) (i : Ix4) (x : Slot) : (s.setSlot i x).mode = s.mode := rfl
@[simp] theorem State.setSlot_config (s : State) (i : Ix4) (x : Slot) : (s.setSlot i x).config = s.config := rfl
@[simp] theorem State.setSlot_reloadLatch (s : State) (i : Ix4) (x : Slot) : (s.setSlot i x).reloadLatch = s.reloadLatch := rfl
@[simp] theorem State.setSlot_loader (s : State) (i : Ix4) (x : Slot) : (s.setSlot i x).loader = s.loader := rfl
@[simp] theorem State.setSlot_resetLine (s : State) (i : Ix4) (x : Slot) : (s.setSlot i x).resetLine = s.resetLine := rfl
@[simp] theorem State.setSlot_presetLines (s : State) (i : Ix4) (x : Slot) : (s.setSlot i x).presetLines = s.presetLines := rfl
@[simp] theorem State.setSlot_straps (s : State) (i : Ix4) (x : Slot) : (s.setSlot i x).straps = s.straps := rfl
@[simp] theorem State.setSlot_outs (s : State) (i : Ix4) (x : Slot) : (s.setSlot i x).outs = s.outs := rfl
@[simp] theorem State.setSlot_freeCount (s : State) (i : Ix4) (x : Slot) : (s.setSlot i x).freeCount = s.freeCount := rfl
@[simp] theorem State.setSlot_pending (s : State) (i : Ix4) (x : Slot) : (s.setSlot i x).pending = s.pending := rfl

/-! ### emit -/

@[simp] theorem State.emit_ports (s : State) (o : Output) : (s.emit o).ports = s.ports := rfl
@[simp] theorem State.emit_links (s : State) (o : Output) : (s.emit o).links = s.links := rfl
@[simp] theorem State.emit_lineSets (s : State) (o : Output) : (s.emit o).lineSets = s.lineSets := rfl
@[simp] theorem State.emit_queue (s : State) (o : Output) : (s.emit o).queue = s.queue := rfl
@[simp] theorem State.emit_nextSerial (s : State) (o : Output) : (s.emit o).nextSerial = s.nextSerial := rfl
@[simp] theorem State.emit_waiting (s : State) (o : Output) : (s.emit o).waiting = s.waiting := rfl
@[simp] theorem State.emit_claimTable (s : State) (o : Output) : (s.emit o).claimTable = s.claimTable := rfl
@[simp] theorem State.emit_claimStatus (s : State) (o : Output) : (s.emit o).claimStatus = s.claimStatus := rfl
@[simp] theorem State.emit_armingCount (s : State) (o : Output) : (s.emit o).armingCount = s.armingCount := rfl
@[simp] theorem State.emit_writeCounter (s : State) (o : Output) : (s.emit o).writeCounter = s.writeCounter := rfl
@[simp] theorem State.emit_engine (s : State) (o : Output) : (s.emit o).engine = s.engine := rfl
@[simp] theorem State.emit_slots (s : State) (o : Output) : (s.emit o).slots = s.slots := rfl
@[simp] theorem State.emit_demandPtr (s : State) (o : Output) : (s.emit o).demandPtr = s.demandPtr := rfl
@[simp] theorem State.emit_prefetchPtr (s : State) (o : Output) : (s.emit o).prefetchPtr = s.prefetchPtr := rfl
@[simp] theorem State.emit_staging (s : State) (o : Output) : (s.emit o).staging = s.staging := rfl
@[simp] theorem State.emit_notifyMark (s : State) (o : Output) : (s.emit o).notifyMark = s.notifyMark := rfl
@[simp] theorem State.emit_recordLost (s : State) (o : Output) : (s.emit o).recordLost = s.recordLost := rfl
@[simp] theorem State.emit_mode (s : State) (o : Output) : (s.emit o).mode = s.mode := rfl
@[simp] theorem State.emit_config (s : State) (o : Output) : (s.emit o).config = s.config := rfl
@[simp] theorem State.emit_reloadLatch (s : State) (o : Output) : (s.emit o).reloadLatch = s.reloadLatch := rfl
@[simp] theorem State.emit_loader (s : State) (o : Output) : (s.emit o).loader = s.loader := rfl
@[simp] theorem State.emit_resetLine (s : State) (o : Output) : (s.emit o).resetLine = s.resetLine := rfl
@[simp] theorem State.emit_presetLines (s : State) (o : Output) : (s.emit o).presetLines = s.presetLines := rfl
@[simp] theorem State.emit_straps (s : State) (o : Output) : (s.emit o).straps = s.straps := rfl
@[simp] theorem State.emit_outs (s : State) (o : Output) : (s.emit o).outs = s.outs ++ [o] := rfl
@[simp] theorem State.emit_freeCount (s : State) (o : Output) : (s.emit o).freeCount = s.freeCount := rfl
@[simp] theorem State.emit_pending (s : State) (o : Output) : (s.emit o).pending = s.pending := rfl

end Sys2Proof.Machine
end

