-- ==== Sys2Proof/Laws/Ops.lean ====
section
/-! SUPPORT. What the shared operations can do: for each the fields it may change, with every other field left as it is. -/

namespace Sys2Proof.Machine

/-! ### Claims -/

theorem lapseClaim_frame (reason : LapseReason) (c : Ix4) (s : State) :
    lapseClaim reason c s =
      { s with
        claimTable := (lapseClaim reason c s).claimTable, claimStatus := (lapseClaim reason c s).claimStatus } := by
  unfold lapseClaim
  cases s.claimTable.get c <;> rfl

theorem breakClaim_frame (line : Addr) (c : Ix4) (s : State) :
    breakClaim line c s =
      { s with
        claimTable := (breakClaim line c s).claimTable, claimStatus := (breakClaim line c s).claimStatus } := by
  unfold breakClaim
  cases s.claimTable.get c with
  | none => rfl
  | some cl =>
    dsimp only
    split
    · exact lapseClaim_frame _ _ _
    · rfl

/-- An operation that changes the claim table and the claim statuses alone. -/
def ClaimsOnly (f : State → State) : Prop :=
  ∀ s, f s = { s with claimTable := (f s).claimTable, claimStatus := (f s).claimStatus }

theorem ClaimsOnly.comp {f g : State → State} (hf : ClaimsOnly f) (hg : ClaimsOnly g) : ClaimsOnly (fun s => f (g s)) := by
  intro s
  have h1 := hf (g s)
  have h2 := hg s
  dsimp only
  generalize f (g s) = u at *
  generalize g s = v at *
  rw [h1, h2]

theorem breakClaims_frame (line : Addr) (s : State) :
    breakClaims line s =
      { s with
        claimTable := (breakClaims line s).claimTable, claimStatus := (breakClaims line s).claimStatus } :=
  (ClaimsOnly.comp (breakClaim_frame line .i3) (ClaimsOnly.comp (breakClaim_frame line .i2)
    (ClaimsOnly.comp (breakClaim_frame line .i1) (breakClaim_frame line .i0)))) s

theorem dropClaims_frame (s : State) :
    dropClaims s =
      { s with claimTable := (dropClaims s).claimTable, claimStatus := (dropClaims s).claimStatus } :=
  (ClaimsOnly.comp (lapseClaim_frame .dropped .i3) (ClaimsOnly.comp (lapseClaim_frame .dropped .i2)
    (ClaimsOnly.comp (lapseClaim_frame .dropped .i1) (lapseClaim_frame .dropped .i0)))) s

/-- Arming touches the claim state alone (R29). -/
theorem armClaim_frame (p : Port) (line : Addr) (s : State) :
    armClaim p line s =
      { s with
        claimTable := (armClaim p line s).claimTable
        claimStatus := (armClaim p line s).claimStatus
        armingCount := (armClaim p line s).armingCount } := by
  unfold armClaim
  split
  · rfl
  · split <;> rfl

theorem giveUpClaim_frame (p : Port) (s : State) :
    giveUpClaim p s =
      { s with claimTable := (giveUpClaim p s).claimTable, claimStatus := (giveUpClaim p s).claimStatus } := by
  unfold giveUpClaim
  split <;> rfl

/-- A decision touches the claim state and the port's counter alone, and the counter advances by one (R40). -/
theorem consumeClaim_frame (p : Port) (s : State) :
    consumeClaim p s =
      { s with
        claimTable := (giveUpClaim p s).claimTable
        claimStatus := (giveUpClaim p s).claimStatus
        writeCounter := s.writeCounter.set p (s.writeCounter.get p + 1) } := by
  unfold consumeClaim State.setCounter
  rw [giveUpClaim_frame]

theorem clearClaim_frame (p : Port) (s : State) :
    clearClaim p s =
      { s with
        claimTable := (giveUpClaim p s).claimTable
        claimStatus := (giveUpClaim p s).claimStatus
        writeCounter := s.writeCounter.set p 0 } := by
  unfold clearClaim State.setCounter
  rw [giveUpClaim_frame]

/-- An expiry touches the claim table and the claim statuses alone (R34). -/
theorem takeHoldExpiry_frame (c : Ix4) (stamp : BitVec 8) (s : State) :
    takeHoldExpiry c stamp s =
      { s with
        claimTable := (takeHoldExpiry c stamp s).claimTable
        claimStatus := (takeHoldExpiry c stamp s).claimStatus } := by
  unfold takeHoldExpiry
  cases s.claimTable.get c with
  | none => rfl
  | some cl =>
    dsimp only
    split
    · exact lapseClaim_frame _ _ _
    · rfl

/-! ### Admission -/

/-- What becomes visible at an admission touches the line sets and the claims alone (R10). -/
theorem makeVisible_frame (line : Addr) (s : State) :
    makeVisible line s =
      { s with
        lineSets := s.lineSets.map (LineSet.afterAdmission line)
        claimTable := (makeVisible line s).claimTable
        claimStatus := (makeVisible line s).claimStatus } := by
  unfold makeVisible
  rw [breakClaims_frame]

/-- An admission adds one entry at the tail and touches, besides it, the line sets and the claims alone (R10). -/
theorem admitEntry_frame (p : Port) (target : Addr) (body : EntryBody) (s : State) :
    admitEntry p target body s =
      { s with
        queue := s.queue ++ [⟨s.nextSerial, p, target, body, false⟩]
        nextSerial := s.nextSerial + 1
        lineSets := s.lineSets.map (LineSet.afterAdmission (lineOf target))
        claimTable := (admitEntry p target body s).claimTable
        claimStatus := (admitEntry p target body s).claimStatus } := by
  unfold admitEntry
  rw [makeVisible_frame]

/-! ### The claim operations read the claim state alone -/

theorem lapseClaim_with (reason : LapseReason) (c : Ix4) (s : State) (ports : PerPort PortState) (waiting : List Port)
    (queue : List Entry) (nextSerial : Nat) (lineSets : PerPort LineSet) :
    lapseClaim reason c { s with ports := ports, waiting := waiting, queue := queue, nextSerial := nextSerial, lineSets := lineSets } =
      { lapseClaim reason c s with
        ports := ports, waiting := waiting, queue := queue, nextSerial := nextSerial, lineSets := lineSets } := by
  unfold lapseClaim
  cases s.claimTable.get c <;> rfl

theorem breakClaim_with (line : Addr) (c : Ix4) (s : State) (ports : PerPort PortState) (waiting : List Port)
    (queue : List Entry) (nextSerial : Nat) (lineSets : PerPort LineSet) :
    breakClaim line c { s with ports := ports, waiting := waiting, queue := queue, nextSerial := nextSerial, lineSets := lineSets } =
      { breakClaim line c s with
        ports := ports, waiting := waiting, queue := queue, nextSerial := nextSerial, lineSets := lineSets } := by
  unfold breakClaim
  cases s.claimTable.get c with
  | none => rfl
  | some cl =>
    dsimp only
    split
    · exact lapseClaim_with ..
    · rfl

theorem breakClaims_with (line : Addr) (s : State) (ports : PerPort PortState) (waiting : List Port)
    (queue : List Entry) (nextSerial : Nat) (lineSets : PerPort LineSet) :
    breakClaims line { s with ports := ports, waiting := waiting, queue := queue, nextSerial := nextSerial, lineSets := lineSets } =
      { breakClaims line s with
        ports := ports, waiting := waiting, queue := queue, nextSerial := nextSerial, lineSets := lineSets } := by
  let u : State → State := fun t =>
    { t with ports := ports, waiting := waiting, queue := queue, nextSerial := nextSerial, lineSets := lineSets }
  have h : ∀ c t, breakClaim line c (u t) = u (breakClaim line c t) := fun c t => breakClaim_with ..
  change breakClaims line (u s) = u (breakClaims line s)
  unfold breakClaims
  rw [h, h, h, h]

/-- An admission neither reads nor writes the ports and the waiting list (R10). -/
theorem admitEntry_with (p : Port) (target : Addr) (body : EntryBody) (s : State) (ports : PerPort PortState)
    (waiting : List Port) :
    admitEntry p target body { s with ports := ports, waiting := waiting } =
      { admitEntry p target body s with ports := ports, waiting := waiting } := by
  unfold admitEntry makeVisible
  dsimp only
  have h := breakClaims_with (lineOf target) s ports waiting (s.queue ++ [⟨s.nextSerial, p, target, body, false⟩])
    (s.nextSerial + 1) (s.lineSets.map (LineSet.afterAdmission (lineOf target)))
  have h' := breakClaims_with (lineOf target) s s.ports s.waiting (s.queue ++ [⟨s.nextSerial, p, target, body, false⟩])
    (s.nextSerial + 1) (s.lineSets.map (LineSet.afterAdmission (lineOf target)))
  exact h.trans (by rw [h'])

theorem giveUpClaim_with (p : Port) (s : State) (ports : PerPort PortState) (waiting : List Port) :
    giveUpClaim p { s with ports := ports, waiting := waiting } =
      { giveUpClaim p s with ports := ports, waiting := waiting } := by
  unfold giveUpClaim
  cases s.claimStatus.get p <;> rfl

theorem consumeClaim_with (p : Port) (s : State) (ports : PerPort PortState) (waiting : List Port) :
    consumeClaim p { s with ports := ports, waiting := waiting } =
      { consumeClaim p s with ports := ports, waiting := waiting } := by
  unfold consumeClaim
  rw [giveUpClaim_with]
  rfl

/-! ### Responses, reports and room -/

/-- A delivery touches the port it answers and the outputs alone (R19). -/
theorem deliver_frame (p : Port) (serial : Nat) (r : Response) (s : State) :
    deliver p serial r s = s ∨
      (deliver p serial r s = answer p r s ∧
        ((∃ q v, s.ports.get p = .settleWait q v serial) ∨ ∃ q v, s.ports.get p = .countWait q v serial)) := by
  unfold deliver
  cases h : s.ports.get p with
  | settleWait q v n =>
    by_cases e : n = serial
    · subst e
      simp
    · simp [e]
  | countWait q v n =>
    by_cases e : n = serial
    · subst e
      simp
    · simp [e]
  | _ => simp

/-- The first step of a pass at one port changes nothing, or takes the staging whole into a FaultPost entry (R7, R8). -/
theorem admitFaultPost_cases (p : Port) (s : State) :
    admitFaultPost p s = s ∨
      ∃ f rec, s.staging.get p = some f ∧ recordLine s p = some rec ∧ s.queue.length < 16
        ∧ admitFaultPost p s = admitEntry p rec (.faultPost f) (s.setStaging p none) := by
  unfold admitFaultPost
  cases hf : s.staging.get p with
  | none => simp
  | some f =>
    cases hr : recordLine s p with
    | none => simp
    | some rec =>
      by_cases h : occupancy s < Config.queueCapacity
      · simp only [h, if_true]
        exact .inr ⟨f, rec, rfl, rfl, h, rfl⟩
      · simp [h]

/-- With nothing staged the first step of a pass changes nothing (R7). -/
theorem admitFaultPosts_none (s : State) (h : ∀ p, s.staging.get p = none) : admitFaultPosts s = s := by
  have h1 : ∀ p, admitFaultPost p s = s := by
    intro p
    simp [admitFaultPost, h p]
  simp [admitFaultPosts, Port.all, h1]

/-- A pass with nothing staged and no port waiting changes nothing (R7). -/
theorem spacePass_nothing (s : State) (hw : s.waiting = []) (h : ∀ p, s.staging.get p = none) : spacePass s = s := by
  unfold spacePass
  rw [admitFaultPosts_none s h, hw]
  cases s
  simp_all [serveWaiting]

/-! ### The end of an event -/

theorem readyPorts_nil (s : State) (h : ∀ p, s.links.get p = none) : readyPorts s = [] := by
  simp [readyPorts, h]

/-- With no request on a link that can be accepted, none is. -/
theorem acceptHeld_none (s : State) (h : readyPorts s = []) : acceptHeld s = s := by
  simp [acceptHeld, h]

/-- While the device does not serve, no port accepts (R120). -/
theorem readyPorts_notServing (s : State) (h : s.mode ≠ .serving) : readyPorts s = [] := by
  simp [readyPorts, canAccept, h]

theorem drainTest_notDraining (s : State) (h : s.mode ≠ .draining) : drainTest s = s := by
  simp [drainTest, h]

/-- In Serving with no request on a link, an event ends as it stands. -/
theorem finishEvent_serving (s : State) (hm : s.mode = .serving) (h : ∀ p, s.links.get p = none) : finishEvent s = s := by
  unfold finishEvent
  rw [acceptHeld_none s (readyPorts_nil s h), drainTest_notDraining s (by simp [hm])]

/-- In Loading an event ends as it stands. -/
theorem finishEvent_loading (s : State) (hm : s.mode = .loading) : finishEvent s = s := by
  unfold finishEvent
  rw [acceptHeld_none s (readyPorts_notServing s (by simp [hm])), drainTest_notDraining s (by simp [hm])]

/-- A port that can accept takes a presented request in the event of its arrival (R120). -/
theorem present_accept (p : Port) (r : Request) (s : State) (hl : s.links.get p = none) (hc : canAccept p s = true) :
    present p r s = accept p r s := by
  have h : s.setLink p none = s := by
    unfold State.setLink
    rw [← hl, PerPort.set_get_same]
  simp [present, hc, h]

/-- A port that cannot accept leaves the request on its link (R120). -/
theorem present_hold (p : Port) (r : Request) (s : State) (hc : canAccept p s = false) :
    present p r s = s.setLink p (some r) := by
  simp [present, hc]

/-- At the assertion of PRESETp the link of port p keeps its request or loses it, and nothing else changes (R116). -/
theorem keepOrWithdraw_frame (p : Port) (s : State) :
    keepOrWithdraw p s =
      { s with links := (keepOrWithdraw p s).links, freeCount := (keepOrWithdraw p s).freeCount } := by
  unfold keepOrWithdraw
  split <;> rfl

/-- A link that presents nothing has nothing to withdraw. -/
theorem keepOrWithdraw_none (p : Port) (s : State) (h : s.links.get p = none) : keepOrWithdraw p s = s := by
  simp [keepOrWithdraw, h]

theorem accept_refuse (p : Port) (r : Request) (s : State) (reason : RefuseReason)
    (h : accessCheck (windowTable s.config) p r = .refuse reason) :
    accept p r s = s.emit (.response p (.refused reason)) := by
  simp [accept, h]

theorem accept_pass (p : Port) (r : Request) (s : State) (v : Verdict)
    (h : accessCheck (windowTable s.config) p r = .pass v) : accept p r s = acceptPassed p r v s := by
  simp [accept, h]

end Sys2Proof.Machine
end

