-- ==== Sys2Proof/Laws/Moves.lean ====
section
/-! SUPPORT. Everything a command can do to the state, said once: each command is a chain of the moves below, so that a law
every move keeps is a law every command keeps. -/

namespace Sys2Proof.Machine

open Sys2Proof.Safety

/-- The port waits on its demand read or on a queue entry: every wait but SpaceWait (R119). -/
def PortState.waits : PortState → Bool
  | .readWait _ _ _ => true
  | .settleWait _ _ _ => true
  | .countWait _ _ _ => true
  | _ => false

/-- The room an entry finds at its admission (R3). -/
def roomFor (body : EntryBody) (s : State) : Prop :=
  match body with
  | .commit _ _ _ => False
  | .faultPost _ => s.queue.length < 16
  | _ => nonFaultPosts s + 1 ≤ 14 ∧ s.queue.length + 1 ≤ 16

/-- No operation of the Setup Loader is in flight. -/
def NoLoaderRead (s : State) : Prop := ∀ i o, (s.slots.get i).occupant = some o → o.owner ≠ .loader

/-- An event: the state it begins in and the command that brings it, none where time passes. -/
structure Event where
  start : State
  command : Option Instr

/-- The moves of an event. A guard of the form `Law s0.start → …` holds when the event began under that law. -/
inductive Move (s0 : Event) (s : State) : State → Prop
  | bookkeeping (o : List Output) (l : PerPort (Option Request)) (n : Nat) (q : List Instr) :
      Move s0 s { s with outs := o, links := l, freeCount := n, pending := q }
  | leaveIdle (p : Port) (x : PortState) (h : s.ports.get p = .idle) (hx : x.waits = true) : Move s0 s (s.setPort p x)
  | endWait (p : Port) (x : PortState) (h : (s.ports.get p).waits = true) (hx : x = .idle ∨ x.waits = true) :
      Move s0 s (s.setPort p x)
  | joinWaiting (p : Port) (r : Request) (v : Verdict) (h : s.ports.get p = .idle) (hu : r.usesQueue = true) :
      Move s0 s (({ s with waiting := s.waiting ++ [p] }).setPort p (.spaceWait r v))
  | leaveWaiting (p : Port) (rest : List Port) (r : Request) (v : Verdict) (x : PortState)
      (hw : s.waiting = p :: rest) (h : s.ports.get p = .spaceWait r v) (hx : x = .idle ∨ x.waits = true) :
      Move s0 s { s with waiting := rest, ports := s.ports.set p x }
  | skipWaiting (p : Port) (rest : List Port) (hw : s.waiting = p :: rest)
      (h : ∀ r v, s.ports.get p = .spaceWait r v → r.usesQueue = false) : Move s0 s { s with waiting := rest }
  | reset (p : Port) (hc : s0.command = some (.presetAssert p)) (h : s.presetLines.get p = false) (hr : s.resetLine = false) : Move s0 s (resetPort p s)
  | release (p : Port) (hc : s0.command = some (.presetRelease p)) (h : s.presetLines.get p = true) : Move s0 s (releasePreset p s)
  | presetInReset (p : Port) (hc : s0.command = some (.presetAssert p)) (h : s.resetLine = true) : Move s0 s { s with presetLines := s.presetLines.set p true }
  | arm (p : Port) (line : Addr) (h : s.mode = .serving) : Move s0 s (armClaim p line s)
  | expire (c : Ix4) (stamp : BitVec 8) : Move s0 s (takeHoldExpiry c stamp s)
  | consume (p : Port) : Move s0 s (consumeClaim p s)
  | install (p : Port) (e : Ix4) (x : LineEntry) (l : Addr) (d : LineData) (hx : x = .valid l d ∨ x = .prefetched l d)
      (h : coherentLine? ((s.lineSets.get p).entries.get e) = some l) :
      Move s0 s (s.setLineSet p ((s.lineSets.get p).install e x))
  | refit (p : Port) (e : Ix4) (l : Addr) (f f' : Fill) (h : (s.lineSets.get p).entries.get e = .filling l f)
      (hc : coherentLine? (.filling l f') = some l → coherentLine? (.filling l f) = some l ∨ queueHolds l s = false) :
      Move s0 s (s.setLineSet p ((s.lineSets.get p).setEntry e (.filling l f')))
  | emptyFill (p : Port) (e : Ix4) (l : Addr) (f : Fill) (h : (s.lineSets.get p).entries.get e = .filling l f) :
      Move s0 s (s.setLineSet p ((s.lineSets.get p).setEntry e .empty))
  | startFill (p : Port) (l : Addr) (cls : FillClass) (h : (s.lineSets.get p).lookup l = none)
      (ha : lineOf l = l ∨ ∃ l0 e, l = l0 + 32 ∧ ((s.lineSets.get p).entries.get e).line? = some l0)
      (hc : cls = .prefetch → queueHolds l s = false) :
      Move s0 s (s.setLineSet p ((s.lineSets.get p).startFill l cls))
  | admitOne (p : Port) (target : Addr) (body : EntryBody) (h : roomFor body s) : Move s0 s (admitEntry p target body s)
  | admitPair (p : Port) (line target : Addr) (m : Mask) (d : LineData) (settled : Bool) (c : OutcomeContent)
      (h : nonFaultPosts s + 2 ≤ 14 ∧ s.queue.length + 2 ≤ 16) :
      Move s0 s (admitEntry p target (.outcome c) (admitEntry p line (.commit m d settled) s))
  | merge (p : Port) (line : Addr) (m : Mask) (d : LineData) (e : Entry) (h : s.queue.getLast? = some e)
      (hm : e.takesMerge p line = true) :
      Move s0 s (makeVisible line { s with queue := mergeIntoTail m d s.queue })
  | dropHead (h : OneQueueOperation s0.start → queueInFlight s = false) : Move s0 s (dropHead s)
  | rewrite : Move s0 s { s with queue := rewriteBehindHead s.queue }
  | stage (p : Port) (x : Option FaultContent) : Move s0 s (s.setStaging p x)
  | markHead : Move s0 s (markHeadIssued s)
  | issue (i : Ix4) (owner : Owner) (req : MemRequest) (timeout : Nat) (hi : (s.slots.get i).occupant = none)
      (ht : LiveTagsNotStale s0.start → (s.slots.get i).allStale = false)
      (hq : owner.ofQueue = true → ReadHoldLaw s0.start →
        ∃ e, s.queue.head? = some e ∧ e.issued = true ∧ memRequestLine req = e.line ∧ queueInFlight s = false
          ∧ readInFlight e.line s = false)
      (hr : owner.countsAsRead = true → queueHolds (memRequestLine req) s = false) (hl : owner ≠ .loader) :
      Move s0 s (s.setSlot i ((s.slots.get i).issue owner req timeout))
  | prefetchIssue (i : Ix4) (p : Port) (hi : (s.slots.get i).isFree = true) (h : prefetchCandidate p s = true) :
      Move s0 s (issuePrefetch i p s)
  | loaderIssue (i : Ix4) (hi : (s.slots.get i).isFree = true) (hm : s.mode = .loading)
      (ho : s.loader.offered = true) : Move s0 s (issueLoader i s)
  | free (i : Ix4) : Move s0 s (freeSlot i s)
  | abandon (i g : Ix4) : Move s0 s (abandonSlot i g s)
  | discard (t : Tag) : Move s0 s (discardCompletion t s)
  | control (e : Engine) (n : Option Bool) (a : Bool) (l : Bool) (d f : Port) :
      Move s0 s { s with engine := e, notifyMark := n, recordLost := a, reloadLatch := l, demandPtr := d, prefetchPtr := f }
  | loaderNext (l : Loader) (h : LoaderLaw s0.start → s.mode = .loading ∧ NoLoaderRead s) : Move s0 s { s with loader := l }
  | startLoading (h : s.mode = .draining) (hl : LoaderLaw s0.start → NoLoaderRead s) : Move s0 s (startLoading s)
  | loadComplete (result : Configuration)
      (h : LoaderLaw s0.start → s0.start.mode = .loading ∧ s.mode = .loading ∧ NoLoaderRead s) :
      Move s0 s (loadComplete result s)
  | drainStart (hc : s0.command = some .reloadEdge) (h0 : s0.start.mode = .serving) (h : s.mode = .serving) :
      Move s0 s (drainStart s)
  | tick (hc : s0.command = none) : Move s0 s (countBoundary s)
  | holdReset (hc : s0.command = some .resetAssert) : Move s0 s (heldInReset s)
  | releaseReset (hc : s0.command = some .resetRelease) (h : s.resetLine = true) : Move s0 s (releaseReset s)

/-- A chain of moves of one event. -/
def Moves (s0 : Event) : State → State → Prop := Relation.ReflTransGen (Move s0)

/-- A law that every move keeps holds at the end of a chain. -/
theorem Moves.keep {s0 : Event} {s t : State} {P : State → Prop} (hm : Moves s0 s t)
    (h : ∀ u v, Move s0 u v → P u → P v) (hs : P s) : P t := by
  induction hm with
  | refl => exact hs
  | tail _ hv ih => exact h _ _ hv ih

theorem Moves.one {s0 : Event} {s t : State} (h : Move s0 s t) : Moves s0 s t := .single h

theorem Moves.none (s0 : Event) (s : State) : Moves s0 s s := .refl

theorem Moves.then {s0 : Event} {s t u : State} (h : Moves s0 s t) (h' : Moves s0 t u) : Moves s0 s u := h.trans h'

/-! ### Ports and responses -/

theorem moves_outs (s0 : Event) (s : State) (o : List Output) : Moves s0 s { s with outs := o } :=
  .one (.bookkeeping o s.links s.freeCount s.pending)

theorem moves_emit (s0 : Event) (s : State) (o : Output) : Moves s0 s (s.emit o) := moves_outs s0 s (s.outs ++ [o])

theorem moves_link (s0 : Event) (s : State) (p : Port) (x : Option Request) : Moves s0 s (s.setLink p x) :=
  .one (.bookkeeping s.outs (s.links.set p x) s.freeCount s.pending)

theorem setPort_same {s : State} {p : Port} {x : PortState} (h : s.ports.get p = x) : s.setPort p x = s := by
  subst h
  unfold State.setPort
  rw [PerPort.set_get_same]

theorem moves_answer (s0 : Event) {s : State} {p : Port} (r : Response)
    (h : s.ports.get p = .idle ∨ (s.ports.get p).waits = true) : Moves s0 s (answer p r s) := by
  rcases h with h | h
  · unfold answer
    rw [setPort_same h]
    exact moves_outs ..
  · exact (Moves.one (.endWait p .idle h (.inl rfl))).then (moves_outs ..)

theorem moves_deliver (s0 : Event) (s : State) (p : Port) (serial : Nat) (r : Response) : Moves s0 s (deliver p serial r s) := by
  rcases deliver_frame p serial r s with h | ⟨h, h'⟩
  · rw [h]
    exact .none ..
  · rw [h]
    refine moves_answer s0 r (.inr ?_)
    rcases h' with ⟨q, v, e⟩ | ⟨q, v, e⟩ <;> rw [e] <;> rfl

/-! ### Reads -/

theorem moves_prefetchAfter (s0 : Event) (s : State) (p : Port) (v : Verdict) (line : Addr) (e : Ix4)
    (hl : ((s.lineSets.get p).entries.get e).line? = some line) : Moves s0 s (prefetchAfter p v line s) := by
  unfold prefetchAfter
  split
  · rename_i h
    simp only [mayPrefetch, Bool.and_eq_true, Bool.not_eq_true', decide_eq_true_eq] at h
    exact .one (.startFill p (line + 32) .prefetch h.1.1.1.2 (.inr ⟨line, e, rfl, hl⟩) fun _ => h.2)
  · exact .none ..

theorem lookup_none {ls : LineSet} {l : Addr} (h : ls.lookup l = none) (e : Ix4) : (ls.entries.get e).line? ≠ some l := by
  have := List.find?_eq_none.mp h e (Ix4.mem_all e)
  simpa using this

theorem lookup_some {ls : LineSet} {l : Addr} {e : Ix4} (h : ls.lookup l = some e) :
    (ls.entries.get e).line? = some l := by
  have := List.find?_some h
  simpa using this

theorem lineOf_lineOf (a : Addr) : lineOf (lineOf a) = lineOf a := by
  unfold lineOf
  rw [BitVec.and_assoc, BitVec.and_self]

theorem installed_line (s : State) (p : Port) (e : Ix4) (l : Addr) (d : LineData) (r : Response) :
    (((answer p r (s.setLineSet p ((s.lineSets.get p).install e (.valid l d)))).lineSets.get p).entries.get e).line? =
      some l := by
  simp [answer, State.setPort, State.emit, State.setLineSet, LineSet.install, LineEntry.line?]

theorem moves_readPath (s0 : Event) (s : State) (p : Port) (r : Request) (v : Verdict) (h : s.ports.get p = .idle) :
    Moves s0 s (readPath p r v s) := by
  unfold readPath
  split
  · unfold readLookup
    split
    · rename_i hl
      exact (Moves.one (.startFill p r.line .demand hl (.inl (lineOf_lineOf _)) (by simp))).then
        (.one (.leaveIdle p _ h rfl))
    · rename_i e hl
      have hline := lookup_some hl
      split
      · rename_i l d he
        rw [he] at hline
        simp only [LineEntry.line?, Option.some.injEq] at hline
        subst hline
        exact ((Moves.one (.install p e _ r.line d (.inl rfl) (by rw [he]; rfl))).then
          (moves_answer s0 _ (.inl h))).then (moves_prefetchAfter s0 _ p v _ e (installed_line ..))
      · rename_i l d he
        rw [he] at hline
        simp only [LineEntry.line?, Option.some.injEq] at hline
        subst hline
        exact ((Moves.one (.install p e _ r.line d (.inl rfl) (by rw [he]; rfl))).then
          (moves_answer s0 _ (.inl h))).then (moves_prefetchAfter s0 _ p v _ e (installed_line ..))
      · rename_i l f he
        rw [he] at hline
        simp only [LineEntry.line?, Option.some.injEq] at hline
        subst hline
        refine (Moves.one (.refit p e r.line f _ he ?_)).then (.one (.leaveIdle p _ h rfl))
        intro hc
        left
        revert hc
        simp only [coherentLine?]
        cases f.issued <;> simp
      · rename_i he
        rw [he] at hline
        simp [LineEntry.line?] at hline
  · exact .one (.leaveIdle p _ h rfl)

/-! ### Writes -/

/-- The entries that the admission of a request makes, without the response or the wait (R2, R9). -/
def entriesOf (p : Port) (r : Request) (v : Verdict) (s : State) : State :=
  match r.view, r.op with
  | .plain, .write => admitEntry p r.line (.store r.mask r.lineData (r.settledStore v)) s
  | .direct, .write => admitEntry p r.line (.store r.mask r.lineData (r.settledStore v)) s
  | .claim, .write =>
    match recordLine s p with
    | some rec =>
      if decideCode s p r.line = .committed then
        admitEntry p rec (.outcome (outcomeContent p (decideCode s p r.line) r (consumeClaim p s)))
          (admitEntry p r.line (.commit r.mask r.lineData v.attrs.settled) (consumeClaim p s))
      else admitEntry p rec (.outcome (outcomeContent p (decideCode s p r.line) r (consumeClaim p s))) (consumeClaim p s)
    | none => consumeClaim p s
  | .tally, .write => admitEntry p r.addr (.add r.operand v.attrs.settled) s
  | .tally, .read => admitEntry p r.addr .count s
  | _, _ => s

theorem entriesOf_with (p : Port) (r : Request) (v : Verdict) (s : State) (ports : PerPort PortState)
    (waiting : List Port) :
    entriesOf p r v { s with ports := ports, waiting := waiting } =
      { entriesOf p r v s with ports := ports, waiting := waiting } := by
  unfold entriesOf
  have hr : recordLine { s with ports := ports, waiting := waiting } p = recordLine s p := rfl
  have hd : ∀ l, decideCode { s with ports := ports, waiting := waiting } p l = decideCode s p l := fun _ => rfl
  have ho : ∀ c t, outcomeContent p c r { t with ports := ports, waiting := waiting } = outcomeContent p c r t :=
    fun _ _ => rfl
  rw [hr]
  simp only [hd, consumeClaim_with, ho, admitEntry_with]
  split <;> try rfl
  split
  · split <;> rfl
  · rfl

theorem admitEntry_ports (p : Port) (target : Addr) (body : EntryBody) (s : State) :
    (admitEntry p target body s).ports = s.ports := by
  rw [admitEntry_frame]

theorem admitEntry_outs (p : Port) (target : Addr) (body : EntryBody) (s : State) :
    (admitEntry p target body s).outs = s.outs := by
  rw [admitEntry_frame]

theorem consumeClaim_ports (p : Port) (s : State) : (consumeClaim p s).ports = s.ports := by
  rw [consumeClaim_frame]

theorem consumeClaim_outs (p : Port) (s : State) : (consumeClaim p s).outs = s.outs := by
  rw [consumeClaim_frame]

/-- The state `t` is `E` with port p answered or put in a wait. -/
def Settles (p : Port) (E t : State) : Prop :=
  ∃ x o, (x = PortState.idle ∨ x.waits = true) ∧ t = { E with ports := E.ports.set p x, outs := o }

theorem settles_wait (p : Port) (E : State) (x : PortState) (h : x.waits = true) : Settles p E (E.setPort p x) :=
  ⟨x, E.outs, .inr h, rfl⟩

theorem settles_answer (p : Port) (E : State) (r : Response) : Settles p E (answer p r E) :=
  ⟨.idle, _, .inl rfl, rfl⟩

theorem settles_admitSettling (p : Port) (r : Request) (v : Verdict) (settled : Bool) (target : Addr)
    (body : EntryBody) (s : State) :
    Settles p (admitEntry p target body s) (admitSettling p r v settled target body s) := by
  unfold admitSettling
  split
  · exact settles_wait _ _ _ rfl
  · exact settles_answer ..

theorem settles_admitDecided (p : Port) (r : Request) (v : Verdict) (code : OutcomeCode) (rec : Addr) (s : State) :
    Settles p
      (if code = .committed then
        admitEntry p rec (.outcome (outcomeContent p code r s))
          (admitEntry p r.line (.commit r.mask r.lineData v.attrs.settled) s)
      else admitEntry p rec (.outcome (outcomeContent p code r s)) s)
      (admitDecided p r v code rec s) := by
  unfold admitDecided
  split
  · split
    · rename_i h
      rw [h]
      exact settles_wait _ _ _ rfl
    · rename_i h
      rw [Bool.not_eq_true] at h
      rw [h]
      exact settles_answer ..
  · exact settles_answer ..

/-- The admission of a request makes its entries, and answers its port or puts it in a wait (R11). -/
theorem settles_admitRequest (p : Port) (r : Request) (v : Verdict) (s : State) (hu : r.usesQueue = true) :
    Settles p (entriesOf p r v s) (admitRequest p r v s) := by
  unfold admitRequest entriesOf
  unfold Request.usesQueue at hu
  cases hv : r.view <;> cases ho : r.op <;> simp only [hv, ho] at hu ⊢
  all_goals try exact absurd hu Bool.false_ne_true
  · exact settles_admitSettling ..
  · exact settles_admitSettling ..
  · unfold admitClaimWrite
    cases recordLine s p with
    | none => exact settles_answer ..
    | some rec => exact settles_admitDecided ..
  · exact settles_wait _ _ _ rfl
  · exact settles_admitSettling ..

end Sys2Proof.Machine
end

