-- ==== Sys2Proof/Laws/Acceptance.lean ====
section
/-! SUPPORT. Acceptance and the outputs of an event: an acceptance reads nothing of what the event has put on the links so far,
and appends to it. -/

namespace Sys2Proof.Machine

/-- The state with outputs put before its own. -/
def State.prepend (o : List Output) (s : State) : State := { s with outs := o ++ s.outs }

/-- The function reads nothing of the outputs and keeps those that stand. -/
def KeepsOutputs (f : State → State) : Prop := ∀ o s, f (s.prepend o) = (f s).prepend o

theorem KeepsOutputs.comp {f g : State → State} (hf : KeepsOutputs f) (hg : KeepsOutputs g) :
    KeepsOutputs (fun s => f (g s)) := fun o s => (congrArg f (hg o s)).trans (hf o (g s))

theorem answer_keepsOutputs (p : Port) (r : Response) : KeepsOutputs (answer p r) := by
  intro o s
  simp [answer, State.prepend, State.setPort, State.emit]

theorem lapseClaim_keepsOutputs (reason : LapseReason) (c : Ix4) : KeepsOutputs (lapseClaim reason c) := by
  intro o s
  unfold lapseClaim State.prepend
  dsimp only
  split <;> rfl

theorem breakClaim_keepsOutputs (line : Addr) (c : Ix4) : KeepsOutputs (breakClaim line c) := by
  intro o s
  have h := lapseClaim_keepsOutputs .broken c o s
  unfold State.prepend at *
  unfold breakClaim
  dsimp only
  split
  · split
    · exact h
    · rfl
  · rfl

theorem makeVisible_keepsOutputs (line : Addr) : KeepsOutputs (makeVisible line) := by
  have h : KeepsOutputs (breakClaims line) :=
    (breakClaim_keepsOutputs line .i3).comp ((breakClaim_keepsOutputs line .i2).comp
      ((breakClaim_keepsOutputs line .i1).comp (breakClaim_keepsOutputs line .i0)))
  exact fun o s => h o { s with lineSets := s.lineSets.map (LineSet.afterAdmission line) }

theorem admitEntry_keepsOutputs (p : Port) (target : Addr) (body : EntryBody) : KeepsOutputs (admitEntry p target body) :=
  fun o s => makeVisible_keepsOutputs (lineOf target) o
    { s with queue := s.queue ++ [⟨s.nextSerial, p, target, body, false⟩], nextSerial := s.nextSerial + 1 }

theorem consumeClaim_keepsOutputs (p : Port) : KeepsOutputs (consumeClaim p) := by
  intro o s
  unfold consumeClaim giveUpClaim State.prepend
  dsimp only
  split <;> rfl

theorem armClaim_keepsOutputs (p : Port) (line : Addr) : KeepsOutputs (armClaim p line) := by
  intro o s
  unfold armClaim State.prepend
  dsimp only
  split
  · rfl
  · split <;> rfl

theorem admitSettling_keepsOutputs (p : Port) (r : Request) (v : Verdict) (settled : Bool) (target : Addr) (body : EntryBody) :
    KeepsOutputs (admitSettling p r v settled target body) := by
  intro o s
  unfold admitSettling
  rw [admitEntry_keepsOutputs]
  split
  · rfl
  · exact answer_keepsOutputs p (.done []) o _

theorem admitDecided_keepsOutputs (p : Port) (r : Request) (v : Verdict) (code : OutcomeCode) (rec : Addr) :
    KeepsOutputs (admitDecided p r v code rec) := by
  intro o s
  unfold admitDecided
  have h : outcomeContent p code r (s.prepend o) = outcomeContent p code r s := rfl
  rw [h, admitEntry_keepsOutputs, admitEntry_keepsOutputs, admitEntry_keepsOutputs, admitEntry_keepsOutputs,
    admitEntry_keepsOutputs]
  split
  · split
    · rfl
    · exact answer_keepsOutputs p (.done []) o _
  · exact answer_keepsOutputs p (.done []) o _

theorem admitClaimWrite_keepsOutputs (p : Port) (r : Request) (v : Verdict) : KeepsOutputs (admitClaimWrite p r v) := by
  intro o s
  unfold admitClaimWrite
  have h : recordLine (s.prepend o) p = recordLine s p := rfl
  have h' : decideCode (s.prepend o) p r.line = decideCode s p r.line := rfl
  rw [h, h', consumeClaim_keepsOutputs]
  split
  · exact admitDecided_keepsOutputs ..
  · exact answer_keepsOutputs p (.done []) o _

theorem admitRequest_keepsOutputs (p : Port) (r : Request) (v : Verdict) : KeepsOutputs (admitRequest p r v) := by
  intro o s
  unfold admitRequest
  split
  · exact admitSettling_keepsOutputs ..
  · exact admitSettling_keepsOutputs ..
  · exact admitClaimWrite_keepsOutputs ..
  · exact admitSettling_keepsOutputs ..
  · rw [admitEntry_keepsOutputs]
    rfl
  · rfl

theorem takeWrite_keepsOutputs (p : Port) (r : Request) (v : Verdict) : KeepsOutputs (takeWrite p r v) := by
  intro o s
  unfold takeWrite
  have h : merges p r v (s.prepend o) = merges p r v s := rfl
  have h' : needFits r.need (s.prepend o) = needFits r.need s := rfl
  have h'' : (s.prepend o).waiting = s.waiting := rfl
  rw [h, h', h'']
  split
  · unfold mergeRequest
    exact ((answer_keepsOutputs p (.done [])).comp (makeVisible_keepsOutputs r.line)) o
      { s with queue := mergeIntoTail r.mask r.lineData s.queue }
  · split
    · exact admitRequest_keepsOutputs ..
    · rfl

theorem prefetchAfter_keepsOutputs (p : Port) (v : Verdict) (line : Addr) : KeepsOutputs (prefetchAfter p v line) := by
  intro o s
  unfold prefetchAfter
  have h : mayPrefetch p v line (s.prepend o) = mayPrefetch p v line s := rfl
  rw [h]
  split <;> rfl

theorem readPath_keepsOutputs (p : Port) (r : Request) (v : Verdict) : KeepsOutputs (readPath p r v) := by
  intro o s
  have hit : ∀ e d, readHit p r v e d (s.prepend o) = (readHit p r v e d s).prepend o := fun e d =>
    ((prefetchAfter_keepsOutputs p v r.line).comp (answer_keepsOutputs p (.done (r.readBytes d)))) o
      (s.setLineSet p ((s.lineSets.get p).install e (.valid r.line d)))
  unfold readPath
  split
  · unfold readLookup
    have h : (s.prepend o).lineSets = s.lineSets := rfl
    rw [h]
    split
    · rfl
    · split
      · exact hit ..
      · exact hit ..
      · rfl
      · rfl
  · rfl

/-- An acceptance reads nothing of what the event has put on the links so far, and appends to it. -/
theorem accept_keepsOutputs (p : Port) (r : Request) : KeepsOutputs (accept p r) := by
  intro o s
  unfold accept
  have h : (s.prepend o).config = s.config := rfl
  rw [h]
  split
  · simp [State.prepend, State.emit]
  · unfold acceptPassed
    split
    · exact readPath_keepsOutputs ..
    · rfl
    · exact ((readPath_keepsOutputs p r _).comp (armClaim_keepsOutputs p r.line)) o s
    · rfl
    · exact takeWrite_keepsOutputs ..

/-! ### The other ports -/

/-- The state of every port but p is the same in both states. -/
def SameOthers (p : Port) (s t : State) : Prop := ∀ q, q ≠ p → t.ports.get q = s.ports.get q

theorem SameOthers.trans {p : Port} {s t u : State} (h : SameOthers p s t) (h' : SameOthers p t u) : SameOthers p s u :=
  fun q hq => (h' q hq).trans (h q hq)

theorem sameOthers_ports {p : Port} {s t : State} (h : t.ports = s.ports) : SameOthers p s t := fun q _ => by rw [h]

theorem sameOthers_setPort (p : Port) (x : PortState) (s : State) : SameOthers p s (s.setPort p x) :=
  fun _ hq => PerPort.get_set_other _ _ hq

theorem sameOthers_answer (p : Port) (r : Response) (s : State) : SameOthers p s (answer p r s) :=
  fun _ hq => PerPort.get_set_other _ _ hq

theorem sameOthers_admitSettling (p : Port) (r : Request) (v : Verdict) (settled : Bool) (target : Addr) (body : EntryBody)
    (s : State) : SameOthers p s (admitSettling p r v settled target body s) := by
  unfold admitSettling
  have h : SameOthers p s (admitEntry p target body s) := sameOthers_ports (admitEntry_ports ..)
  split
  · exact h.trans (sameOthers_setPort _ _ _)
  · exact h.trans (sameOthers_answer _ _ _)

theorem sameOthers_admitClaimWrite (p : Port) (r : Request) (v : Verdict) (s : State) :
    SameOthers p s (admitClaimWrite p r v s) := by
  unfold admitClaimWrite admitDecided
  have h : SameOthers p s (consumeClaim p s) := sameOthers_ports (consumeClaim_ports ..)
  have hs : ∀ target body (u : State), SameOthers p u (admitEntry p target body u) :=
    fun _ _ _ => sameOthers_ports (admitEntry_ports ..)
  split
  · split
    · split
      · exact ((h.trans (hs _ _ _)).trans (hs _ _ _)).trans (sameOthers_setPort _ _ _)
      · exact ((h.trans (hs _ _ _)).trans (hs _ _ _)).trans (sameOthers_answer _ _ _)
    · exact (h.trans (hs _ _ _)).trans (sameOthers_answer _ _ _)
  · exact h.trans (sameOthers_answer _ _ _)

theorem sameOthers_admitRequest (p : Port) (r : Request) (v : Verdict) (s : State) :
    SameOthers p s (admitRequest p r v s) := by
  unfold admitRequest
  split
  · exact sameOthers_admitSettling _ _ _ _ _ _ _
  · exact sameOthers_admitSettling _ _ _ _ _ _ _
  · exact sameOthers_admitClaimWrite _ _ _ _
  · exact sameOthers_admitSettling _ _ _ _ _ _ _
  · exact (sameOthers_ports (admitEntry_ports ..)).trans (sameOthers_setPort _ _ _)
  · exact sameOthers_ports rfl

theorem sameOthers_takeWrite (p : Port) (r : Request) (v : Verdict) (s : State) : SameOthers p s (takeWrite p r v s) := by
  unfold takeWrite mergeRequest
  split
  · exact (sameOthers_ports (by rw [makeVisible_frame])).trans (sameOthers_answer _ _ _)
  · split
    · exact sameOthers_admitRequest _ _ _ _
    · exact fun _ hq => PerPort.get_set_other _ _ hq

theorem sameOthers_readPath (p : Port) (r : Request) (v : Verdict) (s : State) : SameOthers p s (readPath p r v s) := by
  have hit : ∀ e d, SameOthers p s (readHit p r v e d s) := by
    intro e d
    unfold readHit prefetchAfter
    split <;> exact fun _ hq => PerPort.get_set_other _ _ hq
  unfold readPath readLookup
  split
  · split
    · exact fun _ hq => PerPort.get_set_other _ _ hq
    · split
      · exact hit _ _
      · exact hit _ _
      · exact fun _ hq => PerPort.get_set_other _ _ hq
      · exact fun _ hq => PerPort.get_set_other _ _ hq
  · exact fun _ hq => PerPort.get_set_other _ _ hq

/-- An acceptance by one port changes the state of no other port. -/
theorem accept_sameOthers (p : Port) (r : Request) (s : State) : SameOthers p s (accept p r s) := by
  unfold accept
  split
  · exact sameOthers_ports rfl
  · unfold acceptPassed
    split
    · exact sameOthers_readPath _ _ _ _
    · exact sameOthers_setPort _ _ _
    · exact (sameOthers_ports (by rw [armClaim_frame])).trans (sameOthers_readPath _ _ _ _)
    · exact sameOthers_ports rfl
    · exact sameOthers_takeWrite _ _ _ _

end Sys2Proof.Machine
end

