-- ==== Sys2Proof/Laws/Chains.lean ====
section
/-! SUPPORT. Every shared operation, every command and every step as a chain of moves. -/

namespace Sys2Proof.Machine

open Sys2Proof.Safety

/-! ### Entries and acceptance -/

theorem consumeClaim_room (p : Port) (s : State) :
    nonFaultPosts (consumeClaim p s) = nonFaultPosts s ∧ (consumeClaim p s).queue = s.queue := by
  rw [consumeClaim_frame]
  exact ⟨rfl, rfl⟩

theorem needFits_spec {n : Nat} {s : State} (h : needFits n s = true) :
    nonFaultPosts s + n ≤ 14 ∧ s.queue.length + n ≤ 16 := by
  unfold needFits at h
  exact of_decide_eq_true h

theorem moves_entriesOf (s0 : Event) (s : State) (p : Port) (r : Request) (v : Verdict) (h : needFits r.need s = true) :
    Moves s0 s (entriesOf p r v s) := by
  have hf := needFits_spec h
  have h1 : nonFaultPosts s + 1 ≤ 14 ∧ s.queue.length + 1 ≤ 16 := by
    have : 1 ≤ r.need := by
      unfold Request.need
      split <;> omega
    omega
  unfold entriesOf
  split
  · exact .one (.admitOne _ _ _ h1)
  · exact .one (.admitOne _ _ _ h1)
  · rename_i hv _
    have h2 : r.need = 2 := by
      unfold Request.need
      rw [hv]
    have hc := consumeClaim_room p s
    split
    · split
      · refine (Moves.one (.consume p)).then (.one (.admitPair _ _ _ _ _ _ _ ?_))
        rw [hc.1, hc.2]
        omega
      · refine (Moves.one (.consume p)).then (.one (.admitOne _ _ _ ?_))
        change nonFaultPosts _ + 1 ≤ 14 ∧ _
        rw [hc.1, hc.2]
        exact h1
    · exact .one (.consume p)
  · exact .one (.admitOne _ _ _ h1)
  · exact .one (.admitOne _ _ _ h1)
  · exact .none ..

theorem needFits_with (n : Nat) (s : State) (ports : PerPort PortState) (waiting : List Port) :
    needFits n { s with ports := ports, waiting := waiting } = needFits n s := rfl

theorem entriesOf_ports (p : Port) (r : Request) (v : Verdict) (s : State) :
    (entriesOf p r v s).ports = s.ports ∧ (entriesOf p r v s).waiting = s.waiting := by
  have h := entriesOf_with p r v s s.ports s.waiting
  have h' : { s with ports := s.ports, waiting := s.waiting } = s := rfl
  rw [h'] at h
  exact ⟨by rw [h], by rw [h]⟩

/-- The admission of a request of an Idle port (R5). -/
theorem moves_admitIdle (s0 : Event) (s : State) (p : Port) (r : Request) (v : Verdict) (hu : r.usesQueue = true)
    (hp : s.ports.get p = .idle) (h : needFits r.need s = true) : Moves s0 s (admitRequest p r v s) := by
  obtain ⟨x, o, hx, e⟩ := settles_admitRequest p r v s hu
  have hE := (entriesOf_ports p r v s).1
  have hm := moves_entriesOf s0 s p r v h
  generalize entriesOf p r v s = E at e hE hm
  have hp' : E.ports.get p = .idle := by
    rw [hE]
    exact hp
  have h1 : Moves s0 E (E.setPort p x) := by
    rcases hx with rfl | hx
    · rw [setPort_same hp']
      exact .none ..
    · exact .one (.leaveIdle p x hp' hx)
  rw [e]
  exact (hm.then h1).then (moves_outs s0 (E.setPort p x) o)

/-- The admission of the first member of the waiting list (R7). -/
theorem moves_admitWaiting (s0 : Event) (s : State) (p : Port) (rest : List Port) (r : Request) (v : Verdict)
    (hu : r.usesQueue = true) (hw : s.waiting = p :: rest) (hp : s.ports.get p = .spaceWait r v)
    (h : needFits r.need s = true) : Moves s0 s (admitRequest p r v { s with waiting := rest }) := by
  obtain ⟨x, o, hx, e⟩ := settles_admitRequest p r v { s with waiting := rest } hu
  have h1 := entriesOf_with p r v s (s.ports.set p x) rest
  have h2 := entriesOf_with p r v s s.ports rest
  have h3 : { s with ports := s.ports, waiting := rest } = { s with waiting := rest } := rfl
  rw [h3] at h2
  have hm : Moves s0 s (entriesOf p r v { s with ports := s.ports.set p x, waiting := rest }) :=
    (Moves.one (.leaveWaiting p rest r v x hw hp hx)).then (moves_entriesOf s0 _ p r v h)
  rw [h1] at hm
  rw [h2] at e
  rw [e]
  generalize entriesOf p r v s = E at hm
  exact hm.then (moves_outs s0 { E with ports := s.ports.set p x, waiting := rest } o)

theorem moves_takeWrite (s0 : Event) (s : State) (p : Port) (r : Request) (v : Verdict) (hu : r.usesQueue = true)
    (hp : s.ports.get p = .idle) : Moves s0 s (takeWrite p r v s) := by
  unfold takeWrite
  split
  · rename_i h
    unfold merges at h
    simp only [Bool.and_eq_true] at h
    have h2 := h.2
    split at h2
    · rename_i e he
      unfold mergeRequest
      refine (Moves.one (.merge p r.line r.mask r.lineData e he h2)).then (moves_answer s0 _ (.inl ?_))
      rw [makeVisible_frame]
      exact hp
    · exact absurd h2 Bool.false_ne_true
  · split
    · rename_i h
      exact moves_admitIdle s0 s p r v hu hp h.2
    · exact .one (.joinWaiting p r v hp hu)

theorem canAccept_spec {p : Port} {s : State} (h : canAccept p s = true) :
    s.ports.get p = .idle ∧ s.mode = .serving ∧ s.presetLines.get p = false := by
  simp only [canAccept, Bool.and_eq_true, decide_eq_true_eq, Bool.not_eq_true'] at h
  exact ⟨h.1.1, h.1.2, h.2⟩

theorem moves_accept (s0 : Event) (s : State) (p : Port) (r : Request) (h : canAccept p s = true) :
    Moves s0 s (accept p r s) := by
  have hc := canAccept_spec h
  unfold accept
  split
  · exact moves_outs ..
  · rename_i v _
    unfold acceptPassed
    split
    · exact moves_readPath s0 s p r v hc.1
    · exact .one (.leaveIdle p _ hc.1 rfl)
    · refine (Moves.one (.arm p r.line hc.2.1)).then (moves_readPath s0 _ p r v ?_)
      rw [armClaim_frame]
      exact hc.1
    · exact .none ..
    · rename_i h1 h2 h3 h4
      refine moves_takeWrite s0 s p r v ?_ hc.1
      unfold Request.usesQueue
      cases hv : r.view <;> cases ho : r.op <;> simp_all

theorem moves_present (s0 : Event) (s : State) (p : Port) (r : Request) : Moves s0 s (present p r s) := by
  unfold present
  split
  · rename_i h
    exact (moves_link s0 s p none).then (moves_accept s0 _ p r h)
  · exact moves_link ..

theorem moves_keepOrWithdraw (s0 : Event) (s : State) (p : Port) : Moves s0 s (keepOrWithdraw p s) := by
  rw [keepOrWithdraw_frame]
  exact .one (.bookkeeping s.outs _ _ s.pending)

theorem moves_acceptFromLink (s0 : Event) (s : State) (p : Port) : Moves s0 s (acceptFromLink p s) := by
  unfold acceptFromLink
  split
  · split
    · rename_i r _ h
      exact (moves_link s0 s p none).then (moves_accept s0 _ p r h)
    · exact .none ..
  · exact .none ..

theorem moves_foldl {α : Type} (s0 : Event) (f : State → α → State) (h : ∀ s a, Moves s0 s (f s a)) (l : List α)
    (s : State) : Moves s0 s (l.foldl f s) := by
  induction l generalizing s with
  | nil => exact .none ..
  | cons a l ih => exact (h s a).then (ih _)

theorem moves_acceptHeld (s0 : Event) (s : State) : Moves s0 s (acceptHeld s) := by
  unfold acceptHeld
  split
  · exact .none ..
  · exact moves_acceptFromLink ..
  · exact (Moves.one (.bookkeeping s.outs s.links (s.freeCount + 1) s.pending)).then
      (moves_foldl s0 _ (fun t p => moves_acceptFromLink s0 t p) _ _)

/-! ### The space arbiter -/

theorem moves_admitFaultPost (s0 : Event) (s : State) (p : Port) : Moves s0 s (admitFaultPost p s) := by
  rcases admitFaultPost_cases p s with h | ⟨f, rec, _, _, hl, h⟩
  · rw [h]
    exact .none ..
  · rw [h]
    exact (Moves.one (.stage p none)).then (.one (.admitOne _ _ _ hl))

theorem moves_serveWaiting (s0 : Event) (l : List Port) (s : State) (h : s.waiting = l) :
    Moves s0 s (serveWaiting l s) := by
  induction l generalizing s with
  | nil =>
    have : serveWaiting [] s = s := by
      cases s
      simp_all [serveWaiting]
    rw [this]
    exact .none ..
  | cons p rest ih =>
    unfold serveWaiting
    split
    · rename_i r v hp
      split
      · rename_i hf
        by_cases hu : r.usesQueue = true
        · refine (moves_admitWaiting s0 s p rest r v hu h hp hf).then (ih _ ?_)
          obtain ⟨x, o, _, e⟩ := settles_admitRequest p r v { s with waiting := rest } hu
          rw [e]
          exact (entriesOf_ports p r v { s with waiting := rest }).2
        · have ha : admitRequest p r v { s with waiting := rest } = { s with waiting := rest } := by
            unfold admitRequest
            unfold Request.usesQueue at hu
            cases hv : r.view <;> cases ho : r.op <;> simp_all
          rw [ha]
          refine (Moves.one (.skipWaiting p rest h ?_)).then (ih _ rfl)
          intro r' v' hp'
          rw [hp] at hp'
          cases hp'
          simpa using hu
      · have : { s with waiting := p :: rest } = s := by rw [← h]
        rw [this]
        exact .none ..
    · rename_i hp
      exact (Moves.one (.skipWaiting p rest h fun r v e => absurd e (hp r v))).then (ih _ rfl)

theorem moves_spacePass (s0 : Event) (s : State) : Moves s0 s (spacePass s) :=
  (moves_foldl s0 _ (fun t p => moves_admitFaultPost s0 t p) Port.all s).then (moves_serveWaiting s0 _ _ rfl)

theorem moves_removeHead (s0 : Event) (s : State) (h : OneQueueOperation s0.start → queueInFlight s = false) :
    Moves s0 s (removeHead s) :=
  (Moves.one (.dropHead h)).then (moves_spacePass ..)

theorem moves_reportFault (s0 : Event) (s : State) (p : Port) (k : FaultKind) (a : Addr) :
    Moves s0 s (reportFault p k a s) := .one (.stage p _)

/-! ### The ends of operations -/

theorem fillWaiter_spec {p : Port} {e : Ix4} {s : State} {r : Request} {v : Verdict}
    (h : fillWaiter p e s = some (r, v)) : s.ports.get p = .readWait r v (.fill e) := by
  unfold fillWaiter at h
  split at h
  · split at h
    · cases h
      simp_all
    · cases h
  · cases h

theorem moves_answerFill (s0 : Event) (s : State) (p : Port) (e : Ix4) (d : LineData) : Moves s0 s (answerFill p e d s) := by
  unfold answerFill
  split
  · rename_i r v h
    exact moves_answer s0 _ (.inr (by rw [fillWaiter_spec h]; rfl))
  · exact .none ..

theorem moves_failFill (s0 : Event) (s : State) (p : Port) (e : Ix4) (r : FailReason) : Moves s0 s (failFill p e r s) := by
  unfold failFill
  split
  · rename_i x h
    exact moves_answer s0 _ (.inr (by rw [fillWaiter_spec (r := x.1) (v := x.2) h]; rfl))
  · exact .none ..

theorem answerFill_lineSets (p : Port) (e : Ix4) (d : LineData) (s : State) :
    (answerFill p e d s).lineSets = s.lineSets := by
  unfold answerFill
  split <;> rfl

theorem failFill_lineSets (p : Port) (e : Ix4) (r : FailReason) (s : State) :
    (failFill p e r s).lineSets = s.lineSets := by
  unfold failFill
  split <;> rfl

theorem moves_installDemand (s0 : Event) (s : State) (p : Port) (e : Ix4) (l : Addr) (d : LineData)
    (h : coherentLine? ((s.lineSets.get p).entries.get e) = some l) : Moves s0 s (installDemand p e l d s) := by
  unfold installDemand
  have hi : Moves s0 s (installEntry p e (.valid l d) s) := .one (.install p e _ l d (.inl rfl) h)
  split
  · rename_i r v hw
    refine (hi.then (moves_answer s0 _ (.inr ?_))).then (moves_prefetchAfter s0 _ p v l e (installed_line ..))
    change (s.ports.get p).waits = true
    rw [fillWaiter_spec hw]
    rfl
  · exact hi

theorem moves_fillEnd (s0 : Event) (s : State) (p : Port) (e : Ix4) (res : EndResult) : Moves s0 s (fillEnd p e res s) := by
  have hrefit : ∀ l f, (s.lineSets.get p).entries.get e = .filling l f →
      Moves s0 s (setLineEntry p e (.filling l refilled) s) := fun l f h =>
    .one (.refit p e l f refilled h (by simp [coherentLine?, refilled]))
  unfold fillEnd
  split
  · rename_i l f he
    have hempty : Moves s0 s (setLineEntry p e .empty s) := .one (.emptyFill p e l f he)
    have hfail : ∀ r, Moves s0 s (fillFailed p e l f r s) := by
      intro r
      unfold fillFailed
      split
      · exact hempty
      · split
        · exact hrefit l f he
        · refine (moves_failFill s0 s p e r).then (.one (.emptyFill p e l f ?_))
          rw [failFill_lineSets]
          exact he
    split
    · rename_i hi
      split
      · rename_i d
        unfold fillDone
        split
        · split
          · exact hempty
          · split
            · exact hrefit l f he
            · refine (moves_answerFill s0 s p e d).then (.one (.emptyFill p e l f ?_))
              rw [answerFill_lineSets]
              exact he
        · rename_i ho
          have hc : coherentLine? ((s.lineSets.get p).entries.get e) = some l := by
            rw [he]
            simp [coherentLine?, hi, ho]
          split
          · exact .one (.install p e _ l d (.inr rfl) hc)
          · exact moves_installDemand s0 s p e l d hc
      · exact hfail _
      · exact hfail _
    · exact .none ..
  · exact .none ..

theorem moves_passEnd (s0 : Event) (s : State) (p : Port) (res : EndResult) : Moves s0 s (passEnd p res s) := by
  unfold passEnd
  split
  · rename_i r v hp
    have hw : (s.ports.get p).waits = true := by
      rw [hp]
      rfl
    split <;> exact moves_answer s0 _ (.inr hw)
  · exact .none ..

/-- Responses and reports leave the slots alone. -/
theorem deliver_slots (p : Port) (n : Nat) (r : Response) (s : State) : (deliver p n r s).slots = s.slots := by
  rcases deliver_frame p n r s with h | ⟨h, _⟩ <;> rw [h]
  rfl

theorem reportFault_slots (p : Port) (k : FaultKind) (a : Addr) (s : State) :
    (reportFault p k a s).slots = s.slots := rfl

theorem queueInFlight_slots {s t : State} (h : t.slots = s.slots) : queueInFlight t = queueInFlight s := by
  unfold queueInFlight
  rw [h]

theorem moves_storeReport (s0 : Event) (s : State) (e : Entry) (settled : Bool) (res : EndResult) :
    Moves s0 s (storeReport e settled res s) ∧ (storeReport e settled res s).slots = s.slots := by
  unfold storeReport
  split
  · exact ⟨moves_deliver .., deliver_slots ..⟩
  · split
    · exact ⟨.none .., rfl⟩
    · exact ⟨moves_reportFault .., rfl⟩
    · exact ⟨moves_reportFault .., rfl⟩

theorem moves_commitReport (s0 : Event) (s : State) (e : Entry) (settled : Bool) (res : EndResult) :
    Moves s0 s (commitReport e settled res s) ∧ (commitReport e settled res s).slots = s.slots := by
  unfold commitReport
  split
  · exact ⟨moves_deliver .., deliver_slots ..⟩
  · split
    · exact ⟨.none .., rfl⟩
    · exact ⟨moves_reportFault .., rfl⟩
    · exact ⟨moves_reportFault .., rfl⟩

theorem moves_commitRewrite (s0 : Event) (s : State) (res : EndResult) :
    Moves s0 s (commitRewrite res s) ∧ (commitRewrite res s).slots = s.slots := by
  unfold commitRewrite
  split
  · exact ⟨.none .., rfl⟩
  · exact ⟨.one .rewrite, rfl⟩
  · exact ⟨.one .rewrite, rfl⟩

theorem moves_lose (s0 : Event) (s : State) : Moves s0 s (loseRecord s) :=
  .one (.control s.engine s.notifyMark true s.reloadLatch s.demandPtr s.prefetchPtr)

theorem moves_lineWriteEnd (s0 : Event) (s : State) (res : EndResult) (h : OneQueueOperation s0.start → queueInFlight s = false) :
    Moves s0 s (lineWriteEnd res s) := by
  unfold lineWriteEnd
  split
  · rename_i e _
    split
    · rename_i settled _
      obtain ⟨h1, h2⟩ := moves_storeReport s0 s e settled res
      refine h1.then (moves_removeHead s0 _ fun hq => ?_)
      rw [queueInFlight_slots h2]
      exact h hq
    · rename_i settled _
      obtain ⟨h1, h2⟩ := moves_commitReport s0 s e settled res
      obtain ⟨h3, h4⟩ := moves_commitRewrite s0 (commitReport e settled res s) res
      refine (h1.then h3).then (moves_removeHead s0 _ fun hq => ?_)
      rw [queueInFlight_slots (h4.trans h2)]
      exact h hq
    · unfold outcomeEnd
      split
      · exact moves_removeHead s0 _ h
      · exact (moves_lose s0 s).then (moves_removeHead s0 _ h)
      · exact (moves_lose s0 s).then (moves_removeHead s0 _ h)
    · exact .none ..
  · exact .none ..

theorem moves_wrapReport (s0 : Event) (s : State) (e : Entry) (w : Bool) :
    Moves s0 s (wrapReport e w s) ∧ (wrapReport e w s).slots = s.slots := by
  unfold wrapReport
  split
  · exact ⟨moves_reportFault .., rfl⟩
  · exact ⟨.none .., rfl⟩

theorem moves_addEnd (s0 : Event) (s : State) (e : Entry) (settled : Bool) (result : UpdateResult) :
    Moves s0 s (addEnd e settled result s) ∧ (addEnd e settled result s).slots = s.slots := by
  have hfail : ∀ r k, Moves s0 s (if settled then deliver e.port e.serial r s else reportFault e.port k e.target s)
      ∧ (if settled then deliver e.port e.serial r s else reportFault e.port k e.target s).slots = s.slots := by
    intro r k
    cases settled
    · exact ⟨moves_reportFault .., rfl⟩
    · exact ⟨moves_deliver .., deliver_slots ..⟩
  cases result
  case done =>
    unfold addEnd
    cases settled
    · exact moves_wrapReport s0 s e s.engine.wraps
    · obtain ⟨h1, h2⟩ := moves_wrapReport s0 (deliver e.port e.serial (.done []) s) e s.engine.wraps
      exact ⟨(moves_deliver ..).then h1, h2.trans (deliver_slots ..)⟩
  all_goals exact hfail _ _

theorem moves_countEnd (s0 : Event) (s : State) (e : Entry) (result : UpdateResult) :
    Moves s0 s (countEnd e result s) ∧ (countEnd e result s).slots = s.slots := by
  have hfail : ∀ r, Moves s0 s (deliver e.port e.serial r s) ∧ (deliver e.port e.serial r s).slots = s.slots :=
    fun r => ⟨moves_deliver .., deliver_slots ..⟩
  cases result
  case done =>
    unfold countEnd
    obtain ⟨h1, h2⟩ := moves_wrapReport s0 (deliver e.port e.serial (.done (wordBytes s.engine.oldValue)) s) e
      s.engine.wraps
    exact ⟨(moves_deliver ..).then h1, h2.trans (deliver_slots ..)⟩
  all_goals exact hfail _

theorem moves_faultPostEnd (s0 : Event) (s : State) (result : UpdateResult) :
    Moves s0 s (faultPostEnd result s) ∧ (faultPostEnd result s).slots = s.slots := by
  have hlose : Moves s0 s (loseRecord s) ∧ (loseRecord s).slots = s.slots := ⟨moves_lose .., rfl⟩
  cases result
  case done =>
    change Moves s0 s (if s.notifyMark = some true then s.emit .faultPulse else s)
      ∧ (if s.notifyMark = some true then s.emit .faultPulse else s).slots = s.slots
    split
    · exact ⟨moves_emit s0 s .faultPulse, rfl⟩
    · exact ⟨.none .., rfl⟩
  all_goals exact hlose

theorem moves_updateReport (s0 : Event) (s : State) (e : Entry) (result : UpdateResult) :
    Moves s0 s (updateReport e result s) ∧ (updateReport e result s).slots = s.slots := by
  unfold updateReport
  cases e.body with
  | add _ settled => exact moves_addEnd ..
  | count => exact moves_countEnd ..
  | faultPost _ => exact moves_faultPostEnd ..
  | store _ _ _ => exact ⟨.none .., rfl⟩
  | commit _ _ _ => exact ⟨.none .., rfl⟩
  | outcome _ => exact ⟨.none .., rfl⟩

theorem moves_engineIdle (s0 : Event) (s : State) : Moves s0 s (engineIdle s) :=
  .one (.control .idle none s.recordLost s.reloadLatch s.demandPtr s.prefetchPtr)

theorem moves_updateEnd (s0 : Event) (s : State) (result : UpdateResult)
    (h : OneQueueOperation s0.start → queueInFlight s = false) : Moves s0 s (updateEnd result s) := by
  unfold updateEnd
  split
  · rename_i e _
    obtain ⟨h1, h2⟩ := moves_updateReport s0 s e result
    refine (h1.then (moves_engineIdle ..)).then (moves_removeHead s0 _ fun hq => ?_)
    have h3 : (engineIdle (updateReport e result s)).slots = s.slots := h2
    rw [queueInFlight_slots h3]
    exact h hq
  · exact moves_engineIdle ..

/-- What a completed read phase needs for its write phase (R74). -/
structure WritePhaseReady (s0 : Event) (i : Ix4) (s : State) : Prop where
  vacant : (s.slots.get i).occupant = none
  fresh : LiveTagsNotStale s0.start → (s.slots.get i).allStale = false
  head : ReadHoldLaw s0.start → ∃ e, s.queue.head? = some e ∧ e.issued = true ∧ queueInFlight s = false
    ∧ readInFlight e.line s = false

theorem moves_phaseWrite (s0 : Event) (s : State) (i : Ix4) (e : Entry) (m : Mask) (d : LineData) (engine : Engine)
    (mark : Option Bool) (l : Addr) (hl : lineOf l = e.line) (hh : s.queue.head? = some e) (h : WritePhaseReady s0 i s) :
    Moves s0 s (issueIn i .writePhase (.write l m d) { s with engine := engine, notifyMark := mark }) := by
  refine ((Moves.one (.control engine mark s.recordLost s.reloadLatch s.demandPtr s.prefetchPtr)).then
    (.one (.issue i .writePhase (.write l m d) _ h.vacant h.fresh (fun _ hq => ?_) (by simp [Owner.countsAsRead])
      (by simp)))).then (moves_outs ..)
  obtain ⟨e', h1, h2, h3, h4⟩ := h.head hq
  rw [hh] at h1
  cases h1
  exact ⟨e, hh, h2, hl, h3, h4⟩

theorem moves_readPhaseEnd (s0 : Event) (s : State) (i : Ix4) (res : EndResult)
    (h : OneQueueOperation s0.start → queueInFlight s = false) (hw : ∀ d, res = .ok d → WritePhaseReady s0 i s) :
    Moves s0 s (readPhaseEnd i res s) := by
  unfold readPhaseEnd
  split
  · rename_i d
    have hw := hw d rfl
    split
    · rename_i e hh
      have hword : ∀ old nw, Moves s0 s (issueWordWrite i e old nw s) := by
        intro old nw
        unfold issueWordWrite
        exact moves_phaseWrite s0 s i e _ _ (.writing e.serial (.word old nw.1 nw.2)) s.notifyMark e.line
          (lineOf_lineOf _) hh hw
      have hrec : ∀ f, Moves s0 s (issueRecordWrite i e f d s) := by
        intro f
        unfold issueRecordWrite
        exact moves_phaseWrite s0 s i e _ _ (.writing e.serial (.record (faultMerge d f)))
          (some (decide (notifyByte d ≠ 0))) e.target rfl hh hw
      cases e.body with
      | add _ _ => exact hword _ _
      | count => exact hword _ _
      | faultPost f => exact hrec f
      | store _ _ _ => exact .none ..
      | commit _ _ _ => exact .none ..
      | outcome _ => exact .none ..
    · exact .none ..
  · exact moves_updateEnd s0 s _ h
  · exact moves_updateEnd s0 s _ h

theorem moves_writePhaseEnd (s0 : Event) (s : State) (res : EndResult) (h : OneQueueOperation s0.start → queueInFlight s = false) :
    Moves s0 s (writePhaseEnd res s) := by
  unfold writePhaseEnd
  split <;> exact moves_updateEnd s0 s _ h

theorem moves_loaderEnd (s0 : Event) (s : State) (res : EndResult)
    (h : LoaderLaw s0.start → s0.start.mode = .loading ∧ s.mode = .loading ∧ NoLoaderRead s) : Moves s0 s (loaderEnd res s) := by
  unfold loaderEnd
  split
  · split
    · split
      · exact .one (.loaderNext _ fun hl => (h hl).2)
      · exact .one (.loadComplete _ h)
    · split
      · exact .one (.loaderNext _ fun hl => (h hl).2)
      · exact .one (.loadComplete _ h)
    · exact .none ..
  · exact .one (.loadComplete _ h)
  · exact .one (.loadComplete _ h)

/-- What holds after the occupant of slot i, an operation of `owner`, has left it. -/
structure Vacated (s0 : Event) (i : Ix4) (owner : Owner) (s : State) : Prop where
  queue : owner.ofQueue = true → OneQueueOperation s0.start → queueInFlight s = false
  loader : owner = .loader → LoaderLaw s0.start → s0.start.mode = .loading ∧ s.mode = .loading ∧ NoLoaderRead s

theorem moves_endOperation (s0 : Event) (s : State) (i : Ix4) (owner : Owner) (res : EndResult) (h : Vacated s0 i owner s)
    (hw : owner = .readPhase → ∀ d, res = .ok d → WritePhaseReady s0 i s) :
    Moves s0 s (endOperation i owner res s) := by
  unfold endOperation
  split
  · exact moves_fillEnd ..
  · exact moves_passEnd ..
  · exact moves_lineWriteEnd s0 s res (h.queue rfl)
  · exact moves_readPhaseEnd s0 s i res (h.queue rfl) (hw rfl)
  · exact moves_writePhaseEnd s0 s res (h.queue rfl)
  · exact moves_loaderEnd s0 s res (h.loader rfl)
  · exact .none ..

/-! ### Arrivals -/

theorem liveOp_spec {t : Tag} {s : State} {o : Occupant} (h : liveOp t s = some o) :
    (s.slots.get t.slot).occupant = some o ∧ o.gen = t.gen := by
  unfold liveOp at h
  split at h
  · split at h
    · cases h
      exact ⟨by assumption, by assumption⟩
    · cases h
  · cases h

/-- The state `t` is `s` with nothing in slot i. -/
structure Emptied (i : Ix4) (s t : State) : Prop where
  here : (t.slots.get i).occupant = none
  others : ∀ j, j ≠ i → (t.slots.get j).occupant = (s.slots.get j).occupant
  queue : t.queue = s.queue
  mode : t.mode = s.mode

theorem emptied_free (i : Ix4) (s : State) : Emptied i s (freeSlot i s) := by
  refine ⟨?_, ?_, rfl, rfl⟩
  · simp [freeSlot]
  · intro j hj
    simp [freeSlot, Quad.get_set_other _ _ hj]

theorem emptied_abandon (i g : Ix4) (s : State) : Emptied i s (abandonSlot i g s) := by
  refine ⟨?_, ?_, rfl, rfl⟩
  · simp [abandonSlot]
  · intro j hj
    simp [abandonSlot, Quad.get_set_other _ _ hj]

theorem occupant_of_emptied {i j : Ix4} {s t : State} {o : Occupant} (h : Emptied i s t)
    (ho : (t.slots.get j).occupant = some o) : j ≠ i ∧ (s.slots.get j).occupant = some o := by
  by_cases hj : j = i
  · subst hj
    rw [h.here] at ho
    cases ho
  · exact ⟨hj, by rw [← h.others j hj]; exact ho⟩

theorem queueInFlight_false {s : State} (h : ∀ i o, (s.slots.get i).occupant = some o → o.owner.ofQueue = false) :
    queueInFlight s = false := by
  unfold queueInFlight
  rw [List.any_eq_false]
  intro i _
  cases ho : (s.slots.get i).occupant with
  | none => simp
  | some o => simp [h i o ho]

theorem readInFlight_false {l : Addr} {s : State}
    (h : ∀ i o, (s.slots.get i).occupant = some o → o.owner.countsAsRead = true → memRequestLine o.req ≠ l) :
    readInFlight l s = false := by
  unfold readInFlight
  rw [List.any_eq_false]
  intro i _
  cases ho : (s.slots.get i).occupant with
  | none => simp
  | some o =>
    by_cases hc : o.owner.countsAsRead = true
    · simp [h i o ho hc]
    · simp [hc]

/-- The laws of the state an event began in, read from a state with the same slots, queue, mode and loader. -/
structure Begins (s0 : Event) (s : State) : Prop where
  slots : s.slots = s0.start.slots
  queue : s.queue = s0.start.queue
  mode : s.mode = s0.start.mode
  offered : s.loader.offered = s0.start.loader.offered

theorem vacated {s0 : Event} {s t : State} {i : Ix4} {o : Occupant} (hb : Begins s0 s) (ho : (s.slots.get i).occupant = some o)
    (he : Emptied i s t) : Vacated s0 i o.owner t := by
  rw [hb.slots] at ho
  have hj : ∀ {j o'}, (t.slots.get j).occupant = some o' → j ≠ i ∧ (s0.start.slots.get j).occupant = some o' := by
    intro j o' h
    have := occupant_of_emptied he h
    rwa [hb.slots] at this
  constructor
  · intro hq h1
    refine queueInFlight_false fun j o' h => ?_
    obtain ⟨h2, h3⟩ := hj h
    by_contra hc
    simp only [Bool.not_eq_false] at hc
    exact h2 (h1 j i (by simp [slotOfQueue, h3, hc]) (by simp [slotOfQueue, ho, hq]))
  · intro hl hL
    have hm : s0.start.mode = .loading := by
      by_contra hm
      exact (hL.1 hm).2 i o ho hl
    refine ⟨hm, ?_, ?_⟩
    · rw [he.mode, hb.mode]
      exact hm
    · intro j o' h ho'
      obtain ⟨h2, h3⟩ := hj h
      exact h2 (hL.2.1 j i o' o h3 ho ho' hl)

theorem writePhaseReady {s0 : Event} {s : State} {i : Ix4} {o : Occupant} (hb : Begins s0 s)
    (ho : (s.slots.get i).occupant = some o) (hp : o.owner = .readPhase) : WritePhaseReady s0 i (freeSlot i s) := by
  have he := emptied_free i s
  have hv := vacated hb ho he
  rw [hb.slots] at ho
  refine ⟨he.here, ?_, ?_⟩
  · intro hL
    have h1 := hL i o ho
    have h2 : ((freeSlot i s).slots.get i).stale = (s0.start.slots.get i).stale := by
      simp [freeSlot, hb.slots]
    unfold Slot.allStale
    rw [h2]
    rw [List.all_eq_false]
    exact ⟨o.gen, Ix4.mem_all _, by simp [h1]⟩
  · intro hR
    obtain ⟨_, _, h1, h2, h3⟩ := hR
    obtain ⟨e, h4, h5, h6⟩ := h2 i o ho (by rw [hp]; rfl)
    refine ⟨e, ?_, h5, hv.queue (by rw [hp]; rfl) h1, ?_⟩
    · rw [he.queue, hb.queue]
      exact h4
    · refine readInFlight_false fun j o' hj hc => ?_
      obtain ⟨_, h7⟩ := occupant_of_emptied he hj
      rw [hb.slots] at h7
      rw [← h6]
      exact (h3 i j o o' ho h7 (by rw [hp]; rfl) hc).symm

theorem moves_arriveCompletion (s0 : Event) (s : State) (t : Tag) (c : Completion) (hb : Begins s0 s) :
    Moves s0 s (arriveCompletion t c s) := by
  unfold arriveCompletion
  split
  · rename_i o h
    have ho := (liveOp_spec h).1
    exact (Moves.one (.free t.slot)).then (moves_endOperation s0 _ t.slot o.owner _ (vacated hb ho (emptied_free ..))
      fun hp _ _ => writePhaseReady hb ho hp)
  · exact .one (.discard t)

theorem moves_takeTimeout (s0 : Event) (s : State) (t : Tag) (hb : Begins s0 s) : Moves s0 s (takeTimeout t s) := by
  unfold takeTimeout
  split
  · rename_i o h
    have ho := (liveOp_spec h).1
    exact (Moves.one (.abandon t.slot t.gen)).then
      (moves_endOperation s0 _ t.slot o.owner _ (vacated hb ho (emptied_abandon ..)) (by simp))
  · exact .none ..

/-! ### The end of an event -/

theorem drainComplete_noOccupant {s : State} (h : drainComplete s = true) (i : Ix4) :
    (s.slots.get i).occupant = none := by
  simp only [drainComplete, downstreamIdle, Bool.and_eq_true] at h
  have := List.all_eq_true.mp h.2.1 i (Ix4.mem_all i)
  simpa using this

theorem moves_drainTest (s0 : Event) (s : State) : Moves s0 s (drainTest s) := by
  unfold drainTest
  split
  · rename_i h
    refine .one (.startLoading h.1 fun _ i o ho => ?_)
    rw [drainComplete_noOccupant h.2 i] at ho
    cases ho
  · exact .none ..

theorem moves_finishEvent (s0 : Event) (s : State) : Moves s0 s (finishEvent s) :=
  (moves_acceptHeld s0 s).then (moves_drainTest ..)

/-! ### Grants -/

theorem lowestFreeSlot_spec {s : State} {i : Ix4} (h : lowestFreeSlot s = some i) : (s.slots.get i).isFree = true := by
  unfold lowestFreeSlot at h
  simpa using List.find?_some h

theorem isFree_spec {sl : Slot} (h : sl.isFree = true) : sl.occupant = none ∧ sl.allStale = false := by
  simpa [Slot.isFree] using h

theorem headCandidate_spec {s : State} {e : Entry} (h : headCandidate s = some e) :
    s.queue.head? = some e ∧ e.issued = false ∧ queueInFlight s = false ∧ readInFlight e.line s = false := by
  unfold headCandidate at h
  split at h
  · split at h
    · rename_i hc
      cases h
      exact ⟨by assumption, hc⟩
    · cases h
  · cases h

theorem issueRequest_line (e : Entry) : memRequestLine e.issueRequest = e.line := by
  unfold Entry.issueRequest Entry.line
  cases e.body <;> rfl

theorem moves_issueHead (s0 : Event) (s : State) (i : Ix4) (e : Entry) (hi : (s.slots.get i).isFree = true)
    (h : headCandidate s = some e) : Moves s0 s (issueHead i e s) := by
  obtain ⟨h1, h2, h3, h4⟩ := headCandidate_spec h
  have hi := isFree_spec hi
  unfold issueHead
  have hs : (markHeadIssued s).slots = s.slots := by
    unfold markHeadIssued
    split <;> rfl
  have hq : (markHeadIssued s).queue.head? = some { e with issued := true } := by
    unfold markHeadIssued
    cases hl : s.queue with
    | nil =>
      rw [hl] at h1
      cases h1
    | cons a rest =>
      rw [hl] at h1
      cases h1
      rfl
  refine ((Moves.one .markHead).then (.then (.one (.control (e.engineAtIssue s.engine) _ _ _ _ _)) (.one (.issue i e.body.issueOwner
    e.issueRequest _ ?_ ?_ ?_ ?_ ?_)))).then (moves_outs ..)
  · rw [hs]
    exact hi.1
  · intro _
    rw [hs]
    exact hi.2
  · intro _ _
    refine ⟨_, hq, rfl, issueRequest_line e, ?_, ?_⟩
    · unfold queueInFlight
      rw [hs]
      exact h3
    · unfold readInFlight
      rw [hs]
      exact h4
  · intro hc
    exfalso
    revert hc
    unfold EntryBody.issueOwner
    cases e.body <;> simp [Owner.countsAsRead]
  · unfold EntryBody.issueOwner
    cases e.body <;> simp

theorem roundRobin_spec {q : Port} {f : Port → Bool} {p : Port} (h : roundRobin q f = some p) : f p = true :=
  List.find?_some h

theorem demandCandidate_spec {p : Port} {s : State} (h : demandCandidate p s = true) :
    ∃ o, waitingDemand p s = some o ∧ queueHolds (memRequestLine o.req) s = false := by
  unfold demandCandidate at h
  split at h
  · rename_i o ho
    exact ⟨o, ho, by simpa [Offer.isHeld] using h⟩
  · cases h

theorem queueHolds_line {l : Addr} {s : State} (h : queueHolds (lineOf l) s = false) : queueHolds l s = false := by
  unfold queueHolds at *
  rw [List.any_eq_false] at *
  intro e he hl
  rw [decide_eq_true_eq] at hl
  refine h e he ?_
  rw [decide_eq_true_eq, ← hl]
  exact (lineOf_lineOf _).symm

theorem moves_issueDemand (s0 : Event) (s : State) (i : Ix4) (p : Port) (hi : (s.slots.get i).isFree = true)
    (h : demandCandidate p s = true) : Moves s0 s (issueDemand i p s) := by
  obtain ⟨o, ho, hh⟩ := demandCandidate_spec h
  have hi := isFree_spec hi
  unfold issueDemand
  rw [ho]
  have issueRest : ∀ u : State, u.slots = s.slots → u.queue = s.queue → o.owner.ofQueue = false → o.owner ≠ .loader →
      Moves s0 u (issueIn i o.owner o.req { u with demandPtr := p }) := by
    intro u h1 h2 h3 h4
    refine ((Moves.one (.control u.engine u.notifyMark u.recordLost u.reloadLatch p u.prefetchPtr)).then
      (.one (.issue i o.owner o.req (timeoutOf u) ?_ ?_ ?_ ?_ h4))).then (moves_emit ..)
    · rw [h1]
      exact hi.1
    · rw [h1]
      exact fun _ => hi.2
    · rw [h3]
      exact fun h => absurd h Bool.false_ne_true
    · intro _
      unfold queueHolds
      rw [h2]
      exact hh
  unfold markDemandIssued
  unfold waitingDemand at ho
  split at ho
  · rename_i r v e hp
    split at ho
    · rename_i l f he
      split at ho
      · cases ho
        rw [hp]
        refine .then (.one ?_) (issueRest (s.setLineSet p ((s.lineSets.get p).setEntry e
          ((s.lineSets.get p).entries.get e).issueFill)) rfl rfl rfl (by simp))
        rw [he]
        exact .refit p e l f _ he fun _ => .inr (queueHolds_line hh)
      · cases ho
    · cases ho
  · rename_i r v hp
    cases ho
    rw [hp]
    refine .then ?_ (issueRest (s.setPort p (.readWait r v (.pass true))) rfl rfl rfl (by simp))
    exact .one (.endWait p _ (by rw [hp]; rfl) (.inr rfl))
  · cases ho

theorem moves_grantOnce (s0 : Event) (s : State) : Moves s0 s (grantOnce s) := by
  unfold grantOnce
  split
  · rename_i i c hi hc
    have hi := lowestFreeSlot_spec hi
    unfold grantChoice at hc
    split at hc
    · rename_i hm
      split at hc
      · rename_i ho
        cases hc
        exact .one (.loaderIssue i hi hm ho)
      · cases hc
    · split at hc
      · rename_i e he
        cases hc
        refine moves_issueHead s0 s i e hi ?_
        unfold urgedHead at he
        split at he
        · exact he
        · cases he
      · split at hc
        · rename_i p hp
          cases hc
          exact moves_issueDemand s0 s i p hi (roundRobin_spec hp)
        · split at hc
          · rename_i e he
            cases hc
            exact moves_issueHead s0 s i e hi he
          · split at hc
            · rename_i p hp
              cases hc
              exact .one (.prefetchIssue i p hi (roundRobin_spec hp))
            · cases hc
  · exact .none ..

/-! ### Time -/

theorem moves_takeExpiry (s0 : Event) (s : State) (x : Expiry) (hb : Begins s0 s) : Moves s0 s (takeExpiry x s) := by
  cases x with
  | hold c stamp => exact .one (.expire c stamp)
  | operation t => exact (moves_takeTimeout s0 s t hb).then (moves_finishEvent ..)

theorem moves_tickEvent (s0 : Event) (s : State) (hc : s0.command = none) (hb : Begins s0 s) : Moves s0 s (tickEvent s) := by
  unfold tickEvent
  split
  · exact .one (.tick hc)
  · exact moves_takeExpiry s0 s _ hb
  · exact (Moves.one (.bookkeeping s.outs s.links (s.freeCount + 1) s.pending)).then
      (moves_takeExpiry s0 _ _ ⟨hb.slots, hb.queue, hb.mode, hb.offered⟩)

/-! ### Commands -/

/-- The tag alone decides where a completion goes (R87): the ten completion commands have one effect, the arrival of
their completion (log entry 7). -/
theorem exec_completion (t : Tag) (c : Completion) (s : State) :
    execFillCompletion t c s = .next (finishEvent (arriveCompletion t c (beginEvent s)))
      ∧ execPassReadCompletion t c s = .next (finishEvent (arriveCompletion t c (beginEvent s)))
      ∧ execStoreCompletion t c s = .next (finishEvent (arriveCompletion t c (beginEvent s)))
      ∧ execCommitCompletion t c s = .next (finishEvent (arriveCompletion t c (beginEvent s)))
      ∧ execOutcomeCompletion t c s = .next (finishEvent (arriveCompletion t c (beginEvent s)))
      ∧ execReadPhaseCompletion t c s = .next (finishEvent (arriveCompletion t c (beginEvent s)))
      ∧ execWritePhaseCompletion t c s = .next (finishEvent (arriveCompletion t c (beginEvent s)))
      ∧ execLoaderReadCompletion t c s = .next (finishEvent (arriveCompletion t c (beginEvent s)))
      ∧ execStaleCompletion t c s = .next (finishEvent (arriveCompletion t c (beginEvent s)))
      ∧ execDiscardedOperationEnd t c s = .next (finishEvent (arriveCompletion t c (beginEvent s))) := by
  have hlive : liveOp t (beginEvent s) = liveOp t s := rfl
  have howner : ∀ ow, liveOwner t s = some ow →
      arriveCompletion t c (beginEvent s) = endOperation t.slot ow (endOf c) (freeSlot t.slot (beginEvent s)) := by
    intro ow h
    unfold liveOwner at h
    obtain ⟨o, ho, rfl⟩ := Option.map_eq_some_iff.mp h
    unfold arriveCompletion
    rw [hlive, ho]
  have hline : ∀ e, lineWriteHead t s = some e →
      arriveCompletion t c (beginEvent s) = lineWriteEnd (endOf c) (freeSlot t.slot (beginEvent s))
        ∧ (freeSlot t.slot (beginEvent s)).queue.head? = some e := by
    intro e h
    unfold lineWriteHead at h
    split at h
    · rename_i ho
      exact ⟨howner _ ho, h⟩
    · cases h
  refine ⟨?_, ?_, ?_, ?_, ?_, ?_, ?_, ?_, ?_, ?_⟩
  · unfold execFillCompletion
    split
    · rename_i p e h
      rw [howner _ h]
      rfl
    · rfl
  · unfold execPassReadCompletion
    split
    · rename_i p h
      rw [howner _ h]
      rfl
    · rfl
  · unfold execStoreCompletion
    split
    · rename_i h
      obtain ⟨h1, h2⟩ := hline _ h
      rw [h1]
      unfold lineWriteEnd
      rw [h2]
    · rfl
  · unfold execCommitCompletion
    split
    · rename_i h
      obtain ⟨h1, h2⟩ := hline _ h
      rw [h1]
      unfold lineWriteEnd
      rw [h2]
    · rfl
  · unfold execOutcomeCompletion
    split
    · rename_i h
      obtain ⟨h1, h2⟩ := hline _ h
      rw [h1]
      unfold lineWriteEnd
      rw [h2]
    · rfl
  · unfold execReadPhaseCompletion
    split
    · rename_i h
      rw [howner _ h]
      rfl
    · rfl
  · unfold execWritePhaseCompletion
    split
    · rename_i h
      rw [howner _ h]
      rfl
    · rfl
  · unfold execLoaderReadCompletion
    split
    · rename_i h
      rw [howner _ h]
      rfl
    · rfl
  · unfold execStaleCompletion
    split
    · rename_i h
      unfold liveOwner at h
      unfold arriveCompletion
      rw [hlive, Option.map_eq_none_iff.mp h]
    · rfl
  · unfold execDiscardedOperationEnd
    split
    · rename_i h
      rw [howner _ h]
      rfl
    · rfl

theorem moves_beginEvent (s0 : Event) (s : State) : Moves s0 s (beginEvent s) := moves_outs s0 s []

theorem begins_beginEvent (s : State) (c : Option Instr) : Begins ⟨s, c⟩ (beginEvent s) := ⟨rfl, rfl, rfl, rfl⟩

/-- What follows the start of an event follows from its first state. -/
theorem moves_event {s t : State} {c : Option Instr} (h : Moves ⟨s, c⟩ (beginEvent s) t) : Moves ⟨s, c⟩ s t :=
  (moves_beginEvent _ s).then h

theorem moves_execPresent (s : State) (c : Option Instr) (p : Port) (r : Request) :
    Moves ⟨s, c⟩ s (present p r (beginEvent s)) :=
  moves_event (moves_present ..)

theorem moves_execCompletion (s : State) (i : Option Instr) (t : Tag) (c : Completion) :
    Moves ⟨s, i⟩ s (finishEvent (arriveCompletion t c (beginEvent s))) :=
  moves_event ((moves_arriveCompletion _ _ t c (begins_beginEvent s i)).then (moves_finishEvent ..))

theorem moves_takeReloadEdge (s0 : Event) (s : State) (hc : s0.command = some .reloadEdge) (hm : s.mode = s0.start.mode) :
    Moves s0 s (takeReloadEdge s) := by
  have hl : Moves s0 s { s with reloadLatch := true } :=
    .one (.control s.engine s.notifyMark s.recordLost true s.demandPtr s.prefetchPtr)
  unfold takeReloadEdge
  split
  · exact .none ..
  · split
    · rename_i h
      exact .one (.drainStart hc (hm ▸ h) h)
    · exact hl
    · exact hl

theorem moves_assertPreset (s0 : Event) (s : State) (p : Port) (hc : s0.command = some (.presetAssert p))
    (h : s.presetLines.get p = false) (hr : s.resetLine = false) : Moves s0 s (assertPreset p s) := by
  unfold assertPreset
  split
  · exact (Moves.one (.reset p hc h hr)).then (moves_spacePass ..)
  · exact .one (.reset p hc h hr)

/-- Every command answers a next state, and reaches it by a chain of moves. -/
theorem exec_moves (c : Instr) (s : State) : ∃ t, exec c s = .next t ∧ Moves ⟨s, some c⟩ s t := by
  cases c
  case claimRead p a n => exact ⟨_, rfl, moves_execPresent ..⟩
  case claimWrite p a n d => exact ⟨_, rfl, moves_execPresent ..⟩
  case directRead p a n => exact ⟨_, rfl, moves_execPresent ..⟩
  case directWrite p a n d => exact ⟨_, rfl, moves_execPresent ..⟩
  case plainRead p a n => exact ⟨_, rfl, moves_execPresent ..⟩
  case plainWrite p a n d => exact ⟨_, rfl, moves_execPresent ..⟩
  case tallyRead p a n => exact ⟨_, rfl, moves_execPresent ..⟩
  case tallyWrite p a n d => exact ⟨_, rfl, moves_execPresent ..⟩
  case voidViewRequest p sel op a n d => exact ⟨_, rfl, moves_execPresent ..⟩
  case spaceArbiterPass =>
    exact ⟨_, rfl, moves_event ((moves_spacePass ..).then (moves_finishEvent ..))⟩
  case grant => exact ⟨_, rfl, moves_event (moves_grantOnce ..)⟩
  case fillCompletion t c => exact ⟨_, (exec_completion t c s).1, moves_execCompletion ..⟩
  case passReadCompletion t c => exact ⟨_, (exec_completion t c s).2.1, moves_execCompletion ..⟩
  case storeCompletion t c => exact ⟨_, (exec_completion t c s).2.2.1, moves_execCompletion ..⟩
  case commitCompletion t c => exact ⟨_, (exec_completion t c s).2.2.2.1, moves_execCompletion ..⟩
  case outcomeCompletion t c => exact ⟨_, (exec_completion t c s).2.2.2.2.1, moves_execCompletion ..⟩
  case readPhaseCompletion t c => exact ⟨_, (exec_completion t c s).2.2.2.2.2.1, moves_execCompletion ..⟩
  case writePhaseCompletion t c => exact ⟨_, (exec_completion t c s).2.2.2.2.2.2.1, moves_execCompletion ..⟩
  case loaderReadCompletion t c => exact ⟨_, (exec_completion t c s).2.2.2.2.2.2.2.1, moves_execCompletion ..⟩
  case staleCompletion t c => exact ⟨_, (exec_completion t c s).2.2.2.2.2.2.2.2.1, moves_execCompletion ..⟩
  case discardedOperationEnd t c => exact ⟨_, (exec_completion t c s).2.2.2.2.2.2.2.2.2, moves_execCompletion ..⟩
  case downstreamTimeout t =>
    exact ⟨_, rfl, moves_event ((moves_takeTimeout _ _ t (begins_beginEvent s _)).then (moves_finishEvent ..))⟩
  case holdExpiry c n => exact ⟨_, rfl, moves_event (.one (.expire c n))⟩
  case reloadEdge => exact ⟨_, rfl, moves_event ((moves_takeReloadEdge ⟨s, some .reloadEdge⟩ (beginEvent s) rfl rfl).then (moves_finishEvent ..))⟩
  case drainCompletion => exact ⟨_, rfl, moves_event (moves_drainTest ..)⟩
  case resetAssert => exact ⟨_, rfl, .one (.holdReset rfl)⟩
  case resetRelease =>
    by_cases h : s.resetLine = true
    · exact ⟨_, by simp only [exec, execResetRelease, h, if_true], .one (.releaseReset rfl h)⟩
    · exact ⟨_, by simp only [exec, execResetRelease, h]; rfl, moves_beginEvent ..⟩
  case presetAssert p =>
    by_cases h : s.presetLines.get p = true
    · exact ⟨_, by simp only [exec, execPresetAssert, h, if_true], moves_beginEvent ..⟩
    · by_cases hr : s.resetLine = true
      · exact ⟨_, by simp only [exec, execPresetAssert, h, hr, if_true]; rfl,
          moves_event (.one (.presetInReset p rfl hr))⟩
      · exact ⟨_, by simp only [exec, execPresetAssert, h, hr]; rfl,
          moves_event ((moves_keepOrWithdraw _ _ p).then ((moves_assertPreset _ _ p rfl
            (by rw [keepOrWithdraw_frame]; simpa [beginEvent] using h)
            (by rw [keepOrWithdraw_frame]; simpa [beginEvent] using hr)).then (moves_finishEvent ..)))⟩
  case presetRelease p =>
    by_cases h : s.presetLines.get p = true
    · exact ⟨finishEvent (releasePreset p (beginEvent s)), by simp only [exec, execPresetRelease, h, if_true],
        moves_event ((Moves.one (.release (s := beginEvent s) p rfl h)).then (moves_finishEvent ..))⟩
    · exact ⟨_, by simp only [exec, execPresetRelease, h]; rfl, moves_beginEvent ..⟩

/-- Every step answers a next state, by a chain of moves from the state with the command taken off the queue, or from the
state as it stands when no command waits. -/
theorem step_moves (s : State) :
    ∃ t q c, step s = .next t ∧ Moves ⟨{ s with pending := q }, c⟩ { s with pending := q } t := by
  unfold step
  cases h : s.pending with
  | nil => exact ⟨_, s.pending, none, rfl, moves_event (moves_tickEvent _ _ rfl (begins_beginEvent s none))⟩
  | cons c rest =>
    obtain ⟨t, h1, h2⟩ := exec_moves c { s with pending := rest }
    exact ⟨t, rest, some c, h1, h2⟩

end Sys2Proof.Machine
end

