-- ==== Sys2Proof/Laws/Links.lean ====
section
/-! SUPPORT. What leaves the links alone: acceptances, admissions and passes keep the links,
  the mode and the PRESET lines; the
ends of operations, timeouts and grants keep the links (R116, R120). -/

namespace Sys2Proof.Machine

/-- Two states that agree on all an acceptance looks at outside its own port: the links,
  the mode and the PRESET lines (R120). -/
def SameLinkSide (s t : State) : Prop := t.links = s.links ∧ t.mode = s.mode ∧ t.presetLines = s.presetLines

theorem SameLinkSide.refl (s : State) : SameLinkSide s s := ⟨rfl, rfl, rfl⟩

theorem SameLinkSide.trans {s t u : State} (h : SameLinkSide s t) (h' : SameLinkSide t u) : SameLinkSide s u :=
  ⟨h'.1.trans h.1, h'.2.1.trans h.2.1, h'.2.2.trans h.2.2⟩

theorem linkSide_answer (p r s) : SameLinkSide s (answer p r s) := ⟨rfl, rfl, rfl⟩

theorem linkSide_setPort (p r) (s : State) : SameLinkSide s (s.setPort p r) := ⟨rfl, rfl, rfl⟩

theorem linkSide_setLineSet (p r) (s : State) : SameLinkSide s (s.setLineSet p r) := ⟨rfl, rfl, rfl⟩

theorem linkSide_deliver (p n r s) : SameLinkSide s (deliver p n r s) := by
  rcases deliver_frame p n r s with h | ⟨h, _⟩ <;> rw [h] <;> exact ⟨rfl, rfl, rfl⟩

theorem linkSide_makeVisible (l) (s : State) : SameLinkSide s (makeVisible l s) := by
  rw [makeVisible_frame]
  exact ⟨rfl, rfl, rfl⟩

theorem linkSide_admitEntry (p t b) (s : State) : SameLinkSide s (admitEntry p t b s) := by
  rw [admitEntry_frame]
  exact ⟨rfl, rfl, rfl⟩

theorem linkSide_consumeClaim (p) (s : State) : SameLinkSide s (consumeClaim p s) := by
  rw [consumeClaim_frame]
  exact ⟨rfl, rfl, rfl⟩

theorem linkSide_armClaim (p l) (s : State) : SameLinkSide s (armClaim p l s) := by
  rw [armClaim_frame]
  exact ⟨rfl, rfl, rfl⟩

theorem linkSide_admitSettling (p r v st t b) (s : State) : SameLinkSide s (admitSettling p r v st t b s) := by
  unfold admitSettling; split
  · exact (linkSide_admitEntry p t b s).trans (linkSide_setPort ..)
  · exact (linkSide_admitEntry p t b s).trans (linkSide_answer ..)

theorem linkSide_admitClaimWrite (p r v) (s : State) : SameLinkSide s (admitClaimWrite p r v s) := by
  unfold admitClaimWrite; split
  · refine (linkSide_consumeClaim p s).trans ?_
    unfold admitDecided; split
    · split
      · exact ((linkSide_admitEntry ..).trans (linkSide_admitEntry ..)).trans (linkSide_setPort ..)
      · exact ((linkSide_admitEntry ..).trans (linkSide_admitEntry ..)).trans (linkSide_answer ..)
    · exact (linkSide_admitEntry ..).trans (linkSide_answer ..)
  · exact (linkSide_consumeClaim p s).trans (linkSide_answer ..)

theorem linkSide_admitRequest (p r v) (s : State) : SameLinkSide s (admitRequest p r v s) := by
  unfold admitRequest; split
  · exact linkSide_admitSettling ..
  · exact linkSide_admitSettling ..
  · exact linkSide_admitClaimWrite ..
  · exact linkSide_admitSettling ..
  · exact (linkSide_admitEntry ..).trans (linkSide_setPort ..)
  · exact .refl _

theorem linkSide_admitFaultPost (p) (s : State) : SameLinkSide s (admitFaultPost p s) := by
  rcases admitFaultPost_cases p s with h | ⟨_, _, _, _, _, h⟩ <;> rw [h]
  · exact .refl _
  · exact (show SameLinkSide s (s.setStaging p none) from ⟨rfl, rfl, rfl⟩).trans (linkSide_admitEntry ..)

theorem linkSide_serveWaiting (l) (s : State) : SameLinkSide s (serveWaiting l s) := by
  induction l generalizing s with
  | nil => exact ⟨rfl, rfl, rfl⟩
  | cons p rest ih =>
    unfold serveWaiting
    split
    · split
      · exact ((show SameLinkSide s { s with waiting := rest } from ⟨rfl, rfl, rfl⟩).trans
          (linkSide_admitRequest ..)).trans (ih _)
      · exact ⟨rfl, rfl, rfl⟩
    · exact (show SameLinkSide s { s with waiting := rest } from ⟨rfl, rfl, rfl⟩).trans (ih _)

theorem linkSide_spacePass (s : State) : SameLinkSide s (spacePass s) := by
  unfold spacePass
  refine SameLinkSide.trans ?_ (linkSide_serveWaiting ..)
  unfold admitFaultPosts
  simp only [Port.all, List.foldl]
  exact (((((linkSide_admitFaultPost ..).trans (linkSide_admitFaultPost ..)).trans (linkSide_admitFaultPost ..)).trans
    (linkSide_admitFaultPost ..)).trans (linkSide_admitFaultPost ..)).trans (linkSide_admitFaultPost ..)

theorem linkSide_removeHead (s : State) : SameLinkSide s (removeHead s) :=
  (show SameLinkSide s (dropHead s) from ⟨rfl, rfl, rfl⟩).trans (linkSide_spacePass _)

theorem linkSide_reportFault (p k a) (s : State) : SameLinkSide s (reportFault p k a s) := ⟨rfl, rfl, rfl⟩

theorem linkSide_prefetchAfter (p v l) (s : State) : SameLinkSide s (prefetchAfter p v l s) := by
  unfold prefetchAfter; split
  · exact ⟨rfl, rfl, rfl⟩
  · exact .refl _

theorem linkSide_readPath (p r v) (s : State) : SameLinkSide s (readPath p r v s) := by
  unfold readPath; split
  · unfold readLookup; split
    · exact ⟨rfl, rfl, rfl⟩
    · split
      · unfold readHit; exact ((linkSide_setLineSet p _ s).trans (linkSide_answer p _ _)).trans
          (linkSide_prefetchAfter p v _ _)
      · unfold readHit; exact ((linkSide_setLineSet p _ s).trans (linkSide_answer p _ _)).trans
          (linkSide_prefetchAfter p v _ _)
      · exact ⟨rfl, rfl, rfl⟩
      · exact ⟨rfl, rfl, rfl⟩
  · exact ⟨rfl, rfl, rfl⟩

theorem linkSide_takeWrite (p r v) (s : State) : SameLinkSide s (takeWrite p r v s) := by
  unfold takeWrite; split
  · unfold mergeRequest
    exact ((show SameLinkSide s { s with queue := mergeIntoTail r.mask r.lineData s.queue } from ⟨rfl, rfl,
      rfl⟩).trans (linkSide_makeVisible _ _)).trans (linkSide_answer _ _ _)
  · split
    · exact linkSide_admitRequest ..
    · exact ⟨rfl, rfl, rfl⟩

theorem linkSide_accept (p r) (s : State) : SameLinkSide s (accept p r s) := by
  unfold accept; split
  · exact ⟨rfl, rfl, rfl⟩
  · unfold acceptPassed; split
    · exact linkSide_readPath ..
    · exact ⟨rfl, rfl, rfl⟩
    · exact (linkSide_armClaim ..).trans (linkSide_readPath ..)
    · exact .refl _
    · exact linkSide_takeWrite ..

/-! ### Ends of operations keep the links -/

theorem lineWriteEnd_links (res) (s : State) : (lineWriteEnd res s).links = s.links := by
  unfold lineWriteEnd
  split
  · split
    · unfold storeEnd; rw [(linkSide_removeHead _).1]; unfold storeReport; split
      · rw [(linkSide_deliver ..).1]
      · split <;> rfl
    · unfold commitEnd; rw [(linkSide_removeHead _).1]
      have : ∀ x, (commitRewrite res x).links = x.links := by intro x; unfold commitRewrite; split <;> rfl
      rw [this]; unfold commitReport; split
      · rw [(linkSide_deliver ..).1]
      · split <;> rfl
    · unfold outcomeEnd; split <;> rw [(linkSide_removeHead _).1] <;> rfl
    · rfl
  · rfl

theorem wrapReport_links (e w) (s : State) : (wrapReport e w s).links = s.links := by
  unfold wrapReport; split <;> rfl

theorem addEnd_links (e st res) (s : State) : (addEnd e st res s).links = s.links := by
  cases res <;> cases st <;> simp only [addEnd, wrapReport_links, (linkSide_deliver _ _ _ _).1,
    (linkSide_reportFault _ _ _ _).1, if_true, Bool.false_eq_true, if_false]

theorem countEnd_links (e res) (s : State) : (countEnd e res s).links = s.links := by
  cases res <;> simp only [countEnd, wrapReport_links, (linkSide_deliver _ _ _ _).1]

theorem faultPostEnd_links (res) (s : State) : (faultPostEnd res s).links = s.links := by
  cases res <;> simp only [faultPostEnd] <;> (try split) <;> rfl

theorem updateReport_links (e res) (s : State) : (updateReport e res s).links = s.links := by
  unfold updateReport; cases e.body <;> simp only [addEnd_links, countEnd_links, faultPostEnd_links]

theorem updateEnd_links (res) (s : State) : (updateEnd res s).links = s.links := by
  unfold updateEnd
  cases s.queue.head? with
  | none => rfl
  | some e =>
    exact ((linkSide_removeHead _).1.trans (show (engineIdle _).links = _ from rfl)).trans (updateReport_links e res s)

theorem fillDone_links (p e l f d) (s : State) : (fillDone p e l f d s).links = s.links := by
  have h1 : (installDemand p e l d s).links = s.links := by
    unfold installDemand; cases fillWaiter p e s with
    | none => rfl
    | some x => exact (linkSide_prefetchAfter _ _ _ _).1
  have h2 : (answerFill p e d s).links = s.links := by
    unfold answerFill; cases fillWaiter p e s <;> rfl
  unfold fillDone
  split
  · split
    · rfl
    · split
      · rfl
      · exact h2
  · split
    · rfl
    · exact h1

theorem fillFailed_links (p e l f d) (s : State) : (fillFailed p e l f d s).links = s.links := by
  have h2 : (failFill p e d s).links = s.links := by
    unfold failFill; cases fillWaiter p e s <;> rfl
  unfold fillFailed
  split
  · rfl
  · split
    · rfl
    · exact h2

theorem fillEnd_links (p e res) (s : State) : (fillEnd p e res s).links = s.links := by
  unfold fillEnd
  cases (s.lineSets.get p).entries.get e with
  | filling l f =>
    dsimp only
    split
    · cases res
      · exact fillDone_links ..
      · exact fillFailed_links ..
      · exact fillFailed_links ..
    · rfl
  | _ => rfl

theorem passEnd_links (p res) (s : State) : (passEnd p res s).links = s.links := by
  unfold passEnd
  split
  · cases res <;> rfl
  · rfl

theorem readPhaseEnd_links (i res) (s : State) : (readPhaseEnd i res s).links = s.links := by
  unfold readPhaseEnd
  cases res with
  | ok d =>
    dsimp only
    cases s.queue.head? with
    | none => rfl
    | some e => dsimp only; cases e.body <;> rfl
  | error => exact updateEnd_links ..
  | timeout => exact updateEnd_links ..

theorem writePhaseEnd_links (res) (s : State) : (writePhaseEnd res s).links = s.links := by
  cases res <;> exact updateEnd_links ..

theorem loadComplete_links (r) (s : State) : (loadComplete r s).links = s.links := by
  unfold loadComplete; dsimp only; split <;> rfl

theorem loaderEnd_links (res) (s : State) : (loaderEnd res s).links = s.links := by
  unfold loaderEnd
  cases res with
  | ok d =>
    dsimp only
    cases s.loader.phase with
    | ended => rfl
    | header =>
      dsimp only
      split
      · rfl
      · exact loadComplete_links ..
    | line k m =>
      dsimp only
      split
      · rfl
      · exact loadComplete_links ..
  | error => exact loadComplete_links ..
  | timeout => exact loadComplete_links ..

theorem endOperation_links (i ow res) (s : State) : (endOperation i ow res s).links = s.links := by
  cases ow
  · exact fillEnd_links ..
  · exact passEnd_links ..
  · exact lineWriteEnd_links ..
  · exact readPhaseEnd_links ..
  · exact writePhaseEnd_links ..
  · exact loaderEnd_links ..
  · rfl

theorem arriveCompletion_links (t c) (s : State) : (arriveCompletion t c s).links = s.links := by
  unfold arriveCompletion; split
  · rw [endOperation_links]; rfl
  · rfl

theorem takeTimeout_links (t) (s : State) : (takeTimeout t s).links = s.links := by
  unfold takeTimeout; split
  · rw [endOperation_links]; rfl
  · rfl

theorem grantOnce_links (s : State) : (grantOnce s).links = s.links := by
  unfold grantOnce; split
  · unfold issueChoice; split
    · unfold issueHead markHeadIssued; split <;> rfl
    · unfold issueDemand; split
      · unfold markDemandIssued; split <;> rfl
      · rfl
    · unfold issuePrefetch; split
      · split <;> rfl
      · rfl
    · rfl
  · rfl

end Sys2Proof.Machine
end

