-- ==== Sys2Proof/WellFormed.lean ====
section
/-! DEFINITION. Which commands the links can carry: what the types of Syntax.lean do not say already. -/

namespace Sys2Proof

/-- A write of n bytes carries one data byte for each byte of its size (R116): no byte of the data beyond
the size is set. -/
def Size.dataFits (size : Size) (data : LineData) : Bool :=
  decide (data.toNat < 2 ^ (8 * size.bytes))

/-- The view selectors that name no view are 4 to 15 (R103). -/
def selectorVoid (sel : BitVec 4) : Bool :=
  decide (4 ≤ sel.toNat)

/-- A command that its link can carry and that its row names. -/
def Instr.wellFormed : Instr → Bool
  | .claimRead _ _ _ => true
  | .claimWrite _ _ size data => size.dataFits data
  | .directRead _ _ _ => true
  | .directWrite _ _ size data => size.dataFits data
  | .plainRead _ _ _ => true
  | .plainWrite _ _ size data => size.dataFits data
  | .tallyRead _ _ _ => true
  | .tallyWrite _ _ size data => size.dataFits data
  | .voidViewRequest _ sel op _ size data =>
    selectorVoid sel && (if op = .write then size.dataFits data else decide (data = 0))
  | .spaceArbiterPass => true
  | .grant => true
  | .fillCompletion _ _ => true
  | .passReadCompletion _ _ => true
  | .storeCompletion _ c => carriesNoData c
  | .commitCompletion _ c => carriesNoData c
  | .outcomeCompletion _ c => carriesNoData c
  | .readPhaseCompletion _ _ => true
  | .writePhaseCompletion _ c => carriesNoData c
  | .loaderReadCompletion _ _ => true
  | .staleCompletion _ _ => true
  | .discardedOperationEnd _ _ => true
  | .downstreamTimeout _ => true
  | .holdExpiry _ _ => true
  | .reloadEdge => true
  | .drainCompletion => true
  | .resetAssert => true
  | .resetRelease => true
  | .presetAssert _ => true
  | .presetRelease _ => true
where
  /-- The completion of a Write carries no data (R84). -/
  carriesNoData : Completion → Bool
    | .ok data => decide (data = 0)
    | .error => true

end Sys2Proof
end

