-- ==== Sys2Proof/Tests/Slice0.lean ====
section
/-! SUPPORT. Tests: ill-formed commands that WellFormed refuses, small steps whose expected results stand in the manual's
examples, and for every statement with hypotheses a state that meets them. -/

namespace Sys2Proof.Tests

open Sys2Proof Sys2Proof.Machine Sys2Proof.Safety

/-! ### WellFormed: one ill-formed command for each check -/

theorem test_wellFormed_write_beyond_size : (Instr.plainWrite .u0 0 .b1 0x100).wellFormed = false := by decide

theorem test_wellFormed_write_fits : (Instr.plainWrite .u0 0 .b1 0xFF).wellFormed = true := by decide

theorem test_wellFormed_claimWrite : (Instr.claimWrite .u0 0 .b4 0x100000000).wellFormed = false := by decide

theorem test_wellFormed_directWrite : (Instr.directWrite .u0 0 .b2 0x10000).wellFormed = false := by decide

theorem test_wellFormed_tallyWrite : (Instr.tallyWrite .u0 0 .b4 0x100000000).wellFormed = false := by decide

theorem test_wellFormed_void_selector : (Instr.voidViewRequest .u0 3 .read 0 .b4 0).wellFormed = false := by decide

theorem test_wellFormed_void_read_data : (Instr.voidViewRequest .u0 4 .read 0 .b4 1).wellFormed = false := by decide

theorem test_wellFormed_void_write_data : (Instr.voidViewRequest .u0 4 .write 0 .b1 0x100).wellFormed = false := by decide

theorem test_wellFormed_write_completion_data :
    (Instr.storeCompletion ⟨.i0, .i0⟩ (.ok 1)).wellFormed = false
      ∧ (Instr.commitCompletion ⟨.i0, .i0⟩ (.ok 1)).wellFormed = false
      ∧ (Instr.outcomeCompletion ⟨.i0, .i0⟩ (.ok 1)).wellFormed = false
      ∧ (Instr.writePhaseCompletion ⟨.i0, .i0⟩ (.ok 1)).wellFormed = false := by decide

/-- No row of the table has bits: no word spells a command. -/
theorem test_no_word_spells_a_command : decodeTableWord 8 0 = none := rfl

/-! ### The manual's worked values -/

/-- The table of R71. -/
theorem test_add_table :
    addWord 5 (-1) = (4, false) ∧ addWord 3 (-5) = (0xFFFFFFFE, true)
      ∧ addWord 0x7FFFFFFF 1 = (0x80000000, false) ∧ addWord 0xFFFFFFFF 5 = (4, true) ∧ addWord 0 0 = (0, false) := by
  decide

/-- A line of eight words, word 0 lowest. -/
def lineOfWords (a b c d e f g h : Word) : LineData := h ++ (g ++ (f ++ (e ++ (d ++ (c ++ (b ++ a))))))

/-- The one-window block of section 11.2. -/
def exampleBlock : List LineData :=
  [lineOfWords 0x3A71C5E2 0x04060101 0x07D00028 0x00F00000 0 0 0 0,
   lineOfWords 0 0x0000FFFF 0x3F3F0005 0 0x798838F1 0 0 0]

theorem test_example_block_loads :
    loadResult exampleBlock =
      .loaded
        { windows := [⟨0, 0xFFFF, ⟨true, false, true, false, false⟩, PerPort.const true, PerPort.const true⟩]
          tickExponent := 6, timeout := 2000, claimHold := 40, urge := 4, recordBase := 0x0F00000 } := by decide

/-- A check word off by one fails check 11. -/
theorem test_wrong_check_word_falls_back :
    loadResult [lineOfWords 0x3A71C5E2 0x04060101 0x07D00028 0x00F00000 0 0 0 0,
      lineOfWords 0 0x0000FFFF 0x3F3F0005 0 0x798838F2 0 0 0] = .fallback := by decide

/-- Section 12.3, step 6: sequence 11, code 7 and size 32 make the word 0x2007_000B, with the address behind it. -/
theorem test_outcome_word :
    wordAt (outcomeData ⟨11, .failed, .b32, 0x0700200⟩) 0 = 0x2007000B
      ∧ wordAt (outcomeData ⟨11, .failed, .b32, 0x0700200⟩) 4 = 0x00700200 := by decide

/-- Sections 9.8 and 11.3: two postings leave 0x0001_0241 and 0x0020_0040 in bytes 8 to 15 of record 3. -/
theorem test_two_postings :
    let first := faultMerge (lineOfWords 0 0 0x01000000 0 0 0 0 0) ⟨0x01, 1, .storeError, 0x0200040⟩
    let second := faultMerge (faultLineData first) ⟨0x40, 1, .wrap, 0x0200104⟩
    second = 0x0020004000010241 := by decide

/-! ### States for the witnesses -/

/-- Windows for the tests: granule 0 with no attribute, 1 Buffered and Stream, 2 Buffered with ClaimOK and TallyOK, 3 Settled
with ClaimOK and TallyOK, 4 closed to every port. -/
def testWindows : List Window :=
  [⟨0, 0, ⟨false, false, false, false, false⟩, PerPort.const true, PerPort.const true⟩,
   ⟨1, 1, ⟨true, true, false, false, false⟩, PerPort.const true, PerPort.const true⟩,
   ⟨2, 2, ⟨true, false, false, true, true⟩, PerPort.const true, PerPort.const true⟩,
   ⟨3, 3, ⟨false, false, true, true, true⟩, PerPort.const true, PerPort.const true⟩,
   ⟨4, 4, ⟨false, false, false, false, false⟩, PerPort.const false, PerPort.const false⟩]

def testSetup : Setup := ⟨testWindows, 6, 8, 40, 4, 0x0F00000⟩

/-- A device that serves, with nothing in hand. -/
def serving : State :=
  { State.reset with mode := .serving, resetLine := false, config := .loaded testSetup }

def plainAttrs : Attributes := ⟨false, false, false, false, false⟩
def streamAttrs : Attributes := ⟨true, true, false, false, false⟩
def bufferedAttrs : Attributes := ⟨true, false, false, true, true⟩
def settledAttrs : Attributes := ⟨false, false, true, true, true⟩

/-- A serving device with one entry of port 1's line set. -/
def withLine (e : Ix4) (x : LineEntry) : State :=
  serving.setLineSet .u1 ⟨(Quad.const .empty).set e x, if x.dataLine?.isSome then [e] else []⟩

def storeEntry (serial : Nat) (issued settled : Bool) : Entry :=
  ⟨serial, .u1, 0x40, .store 0xF 0x11223344 settled, issued⟩

/-- A serving device with entries in its queue. -/
def withQueue (q : List Entry) : State := { serving with queue := q, nextSerial := q.length }

/-- A serving device with port 1's claim in C0 on a line of window 2. -/
def withClaim : State :=
  { serving with
    claimTable := (Quad.const none).set .i0 (some ⟨.u1, 0x2000, some 40, 1⟩)
    claimStatus := (PerPort.const .none).set .u1 (.held .i0)
    armingCount := 1 }

/-- A device with an operation in flight in slot 0. -/
def withOp (owner : Owner) (req : MemRequest) (s : State) : State :=
  { s with slots := s.slots.set .i0 ⟨some ⟨owner, req, .i0, 8⟩, .i1, Quad.const false⟩ }

def tag0 : Tag := ⟨.i0, .i0⟩

theorem forPorts {P : Port → Prop} (h : P .u0 ∧ P .u1 ∧ P .u2 ∧ P .u3 ∧ P .u4 ∧ P .u5) (p : Port) : P p := by
  obtain ⟨h0, h1, h2, h3, h4, h5⟩ := h
  cases p <;> assumption

theorem forPlaces {P : Ix4 → Prop} (h : P .i0 ∧ P .i1 ∧ P .i2 ∧ P .i3) (i : Ix4) : P i := by
  obtain ⟨h0, h1, h2, h3⟩ := h
  cases i <;> assumption

theorem quiet_serving : Quiet serving := ⟨rfl, forPorts (by decide)⟩

theorem accepting_serving (p : Port) : Accepting p serving := by cases p <;> exact ⟨rfl, rfl, rfl, rfl⟩

theorem claimLaw_withClaim : ClaimLaw withClaim := by
  refine ⟨?_, ?_⟩
  · intro c cl h
    cases c <;> cases h
    rfl
  · intro p c h
    cases p <;> cases h
    exact ⟨_, rfl, rfl⟩

/-- An operation of the head is in flight. -/
def headInFlight (owner : Owner) (q : List Entry) : State := withOp owner (.write 0x40 0xF 0x11223344) (withQueue q)

/-! ### One step each, with the results the manual's examples give -/

/-- What a command leaves, in a state where it answers one. -/
def after (c : Instr) (s : State) : State :=
  match exec c s with
  | .next t => t
  | _ => s

/-- The windows of section 6.9. -/
def windows69 : List Window :=
  [⟨0x0040, 0x0040, ⟨false, false, false, true, true⟩, PerPort.const true, PerPort.const true⟩,
   ⟨0x0000, 0x00FF, ⟨true, true, false, false, false⟩, PerPort.const true, ⟨true, true, false, false, true, false⟩⟩,
   ⟨0x0080, 0x0081, ⟨false, false, true, false, true⟩, PerPort.const true, PerPort.const true⟩]

/-- The eight requests of section 6.9. -/
theorem test_access_checks :
    accessCheck windows69 .u2 ⟨.read, 0x20040010, .b4, 0⟩ = .pass ⟨0, ⟨false, false, false, true, true⟩⟩
    ∧ accessCheck windows69 .u2 ⟨.write, 0x00040FFE, .b4, 0⟩ = .refuse .misaligned
    ∧ accessCheck windows69 .u3 ⟨.write, 0x30040020, .b32, 0⟩ = .refuse .badSize
    ∧ accessCheck windows69 .u3 ⟨.read, 0x30080000, .b4, 0⟩ = .refuse .viewDenied
    ∧ accessCheck windows69 .u5 ⟨.write, 0x00001000, .b2, 0⟩ = .refuse .writeDenied
    ∧ accessCheck windows69 .u5 ⟨.read, 0x00300000, .b32, 0⟩ = .refuse .unmapped
    ∧ accessCheck windows69 .u0 ⟨.read, 0x70000000, .b4, 0⟩ = .refuse .voidView
    ∧ accessCheck windows69 .u4 ⟨.write, 0x10080004, .b4, 0⟩ = .pass ⟨1, ⟨true, true, false, false, false⟩⟩ := by decide

/-- Section 1.10 before step 4: 13 Stores and the FaultPost of record 1, U2 waiting with a claim write and U4 with a Plain
write. -/
def pressure : State :=
  { withOp .lineWrite (.write 0x40 0xF 0x11223344) serving with
    queue := storeEntry 0 true false :: List.replicate 12 (storeEntry 1 false false) ++ [⟨2, .u1, 0x0F00020,
      .faultPost ⟨1, 1, .storeError, 0x40⟩, false⟩]
    nextSerial := 3
    waiting := [.u2, .u4]
    ports := ((PerPort.const .idle).set .u2 (.spaceWait (writeRequest selClaim 0x2C40 .b4 1) ⟨2, bufferedAttrs⟩)).set .u4
      (.spaceWait (writeRequest selPlain 0x1000 .b4 1) ⟨1, streamAttrs⟩)
    claimTable := (Quad.const none).set .i0 (some ⟨.u2, 0x2C40, some 40, 1⟩)
    claimStatus := (PerPort.const .none).set .u2 (.held .i0) }

/-- Section 1.10, step 4: the removal admits U2's Commit and Outcome, and U4 waits on. -/
theorem test_store_completion_admits_the_first_waiter :
    (after (.storeCompletion tag0 (.ok 0)) pressure).waiting = [.u4]
    ∧ ((after (.storeCompletion tag0 (.ok 0)) pressure).queue.drop 13).map Entry.body =
      [.commit 0xF 1 false, .outcome ⟨1, .committed, .b4, 0x2C40⟩]
    ∧ (after (.storeCompletion tag0 (.ok 0)) pressure).outs = [.response .u2 (.done [])]
    ∧ (after (.storeCompletion tag0 (.ok 0)) pressure).claimStatus.get .u2 = .none := by decide

/-- Section 5.8, step 1: S0 holds a fill of U3, U4's read is held behind the Store, so the head is urged and takes S1. -/
def arbiter : State :=
  { serving with
    slots := ⟨⟨some ⟨.fill .u3 .i0, .read .b32 0x2000, .i1, 8⟩, .i2, Quad.const false⟩, Slot.initial, Slot.initial,
      Slot.initial⟩
    queue := [⟨0, .u1, 0x0500000, .store 0xF 1 false, false⟩]
    ports := ((PerPort.const .idle).set .u4 (.readWait (readRequest selDirect 0x0500004 .b4) ⟨0, plainAttrs⟩
      (.pass false))).set .u0 (.readWait (readRequest selPlain 0x0510000 .b4) ⟨1, streamAttrs⟩ (.fill .i0))
    lineSets := ((PerPort.const LineSet.allEmpty).set .u0
      ⟨(Quad.const .empty).set .i0 (.filling 0x0510000 ⟨.demand, false, false, false⟩), []⟩).set .u2
      ⟨(Quad.const .empty).set .i0 (.filling 0x0520020 ⟨.prefetch, false, false, false⟩), []⟩ }

theorem test_grant_urged_head :
    (after .grant arbiter).slots.get .i1 =
      ⟨some ⟨.lineWrite, .write 0x0500000 0xF 1, .i0, 8⟩, .i1, Quad.const false⟩
    ∧ (after .grant arbiter).outs = [.request ⟨.i1, .i0⟩ (.write 0x0500000 0xF 1)] := by decide

/-- Section 5.8, step 2: with the Store in flight the demand round-robin finds U0's fill, for U4's read is held. -/
theorem test_grant_demand_read :
    (after .grant (after .grant arbiter)).demandPtr = .u0
    ∧ ((after .grant (after .grant arbiter)).slots.get .i2).occupant =
      some ⟨.fill .u0 .i0, .read .b32 0x0510000, .i0, 8⟩ := by decide

/-- Section 5.8, step 7: a late completion with a stale generation leaves the occupant and the stale set forgets it. -/
theorem test_late_completion :
    let s : State :=
      { serving with
        slots := serving.slots.set .i0 ⟨some ⟨.fill .u5 .i0, .read .b32 0x0530000, .i2, 8⟩, .i3, (Quad.const false).set .i1 true⟩ }
    (after (.staleCompletion ⟨.i0, .i1⟩ (.ok 7)) s).slots.get .i0 =
      ⟨some ⟨.fill .u5 .i0, .read .b32 0x0530000, .i2, 8⟩, .i3, Quad.const false⟩ := by decide

/-- Section 12.2: a line set with a prefetch in flight. -/
def overtaking (f : Fill) (p : PortState) : State :=
  withOp (.fill .u2 .i1) (.read .b32 0x1020)
    { serving.setLineSet .u2 ⟨(Quad.const .empty).set .i1 (.filling 0x1020 f), []⟩ with
      ports := (PerPort.const .idle).set .u2 p }

/-- Section 12.2, step 1: the write's admission overtakes the fill, and U5 is answered Done. -/
theorem test_plain_write_overtakes :
    ((after (.plainWrite .u5 0x1028 .b4 1) (overtaking ⟨.prefetch, true, false, false⟩ .idle)).lineSets.get .u2).entries.get
      .i1 = .filling 0x1020 ⟨.prefetch, true, true, false⟩
    ∧ (after (.plainWrite .u5 0x1028 .b4 1) (overtaking ⟨.prefetch, true, false, false⟩ .idle)).outs =
      [.response .u5 (.done [])] := by decide

/-- Section 12.2, step 2: U2's read joins the overtaken fill, with refill. -/
theorem test_plain_read_joins :
    ((after (.plainRead .u2 0x1028 .b4) (overtaking ⟨.prefetch, true, true, false⟩ .idle)).lineSets.get .u2).entries.get .i1 =
      .filling 0x1020 ⟨.demand, true, true, true⟩ := by decide

/-- Section 12.2, step 3: the old data is discarded and the fill is offered again. -/
theorem test_fill_completion_refills :
    let s := overtaking ⟨.demand, true, true, true⟩ (.readWait (readRequest selPlain 0x1028 .b4) ⟨1, streamAttrs⟩ (.fill .i1))
    ((after (.fillCompletion tag0 (.ok 7)) s).lineSets.get .u2).entries.get .i1 =
      .filling 0x1020 ⟨.demand, false, false, false⟩
    ∧ (after (.fillCompletion tag0 (.ok 7)) s).outs = [] := by decide

/-- Section 12.2, step 5: the line is installed, U2 is answered, and a prefetch of the next line takes an Empty entry. -/
theorem test_fill_completion_prefetches :
    let s := overtaking ⟨.demand, true, false, false⟩ (.readWait (readRequest selPlain 0x1028 .b1) ⟨1, streamAttrs⟩ (.fill .i1))
    (after (.fillCompletion tag0 (.ok (0xAB#256 <<< 64))) s).outs = [.response .u2 (.done [0xAB])]
    ∧ ((after (.fillCompletion tag0 (.ok (0xAB#256 <<< 64))) s).lineSets.get .u2).entries.get .i0 =
      .filling 0x1040 ⟨.prefetch, false, false, false⟩ := by decide

/-- Section 12.3, step 3: the Outcome's code becomes 7 and the pass admits the FaultPost. -/
theorem test_commit_error_rewrites :
    let s : State :=
      { withOp .lineWrite (.write 0x0700200 0xFFFFFFFF 1) serving with
        queue := [⟨0, .u4, 0x0700200, .commit 0xFFFFFFFF 1 false, true⟩,
          ⟨1, .u4, 0x0F00080, .outcome ⟨11, .committed, .b32, 0x0700200⟩, false⟩]
        nextSerial := 2 }
    (after (.commitCompletion tag0 .error) s).queue =
      [⟨1, .u4, 0x0F00080, .outcome ⟨11, .failed, .b32, 0x0700200⟩, false⟩,
       ⟨2, .u4, 0x0F00080, .faultPost ⟨0x04, 1, .commitError, 0x0700200⟩, false⟩] := by decide

/-- R29: with four entries in use a claim read is decided Crowded and still reads. -/
theorem test_claim_read_crowded :
    let s : State := { serving with claimTable := Quad.const (some ⟨.u0, 0, none, 0⟩) }
    (after (.claimRead .u1 0x2004 .b4) s).claimStatus.get .u1 = .lapsed .crowded 0x2000
    ∧ (after (.claimRead .u1 0x2004 .b4) s).armingCount = 0
    ∧ (after (.claimRead .u1 0x2004 .b4) s).ports.get .u1 =
      .readWait (readRequest selClaim 0x2004 .b4) ⟨2, bufferedAttrs⟩ (.fill .i0) := by decide

/-- R77: a Count's port receives the old value in address order, and a wrap is staged and posted. -/
theorem test_count_wraps :
    let s : State :=
      { headInFlight .writePhase [⟨0, .u1, 0x2004, .count, true⟩] with
        engine := .writing 0 (.word 0xFFFFFFFF 0 true)
        ports := (PerPort.const .idle).set .u1 (.countWait (readRequest selTally 0x2004 .b4) ⟨2, bufferedAttrs⟩ 0) }
    (after (.writePhaseCompletion tag0 (.ok 0)) s).outs = [.response .u1 (.done [0xFF, 0xFF, 0xFF, 0xFF])]
    ∧ (after (.writePhaseCompletion tag0 (.ok 0)) s).queue.map Entry.body = [.faultPost ⟨0x40, 1, .wrap, 0x2004⟩] := by
  decide

/-- R116, R130: presented again while PRESETp is asserted, the later request is the one the port accepts at the release. -/
theorem test_presented_again :
    let s : State := { serving.setPort .u1 .reset with presetLines := (PerPort.const false).set .u1 true }
    (after (.presetRelease .u1) (after (.directRead .u1 0x44 .b4) (after (.directRead .u1 0x40 .b4) s))).ports.get .u1 =
      .readWait (readRequest selDirect 0x44 .b4) ⟨0, plainAttrs⟩ (.pass false) := by decide

/-- R46, R127: a port reset gives up the claim and the counter, and leaves the queue. -/
theorem test_preset_assert :
    let s : State := { withClaim with queue := [storeEntry 0 false true] }
    (after (.presetAssert .u1) s).ports.get .u1 = .reset
    ∧ (after (.presetAssert .u1) s).claimTable.get .i0 = none
    ∧ (after (.presetAssert .u1) s).queue = [storeEntry 0 false true] := by decide

/-! ### Hypotheses of the statements, each met -/

theorem test_hyp_EmptyQueueCountsTime :
    (withClaim.pending = [] ∧ (∀ c cl, withClaim.claimTable.get c = some cl → cl.timer ≠ some 0)
      ∧ ∀ i o, (withClaim.slots.get i).occupant = some o → o.timer ≠ 0)
    ∧ (∃ s : State, s.pending = [] ∧ s.claimTable.get .i3 = some ⟨.u1, 0x2000, some 0, 1⟩
      ∧ (∀ c' cl', s.claimTable.get c' = some cl' → cl'.timer = some 0 → c' = .i3)
      ∧ ∀ i o, (s.slots.get i).occupant = some o → o.timer ≠ 0)
    ∧ ∃ s : State, s.pending = [] ∧ (s.slots.get .i0).occupant = some ⟨.loader, .read .b32 0, .i0, 0⟩
      ∧ (∀ j o', (s.slots.get j).occupant = some o' → o'.timer = 0 → j = .i0)
      ∧ ∀ c cl, s.claimTable.get c = some cl → cl.timer ≠ some 0 := by
  refine ⟨⟨rfl, ?_, ?_⟩, ⟨{ serving with claimTable := (Quad.const none).set .i3 (some ⟨.u1, 0x2000, some 0, 1⟩) }, rfl, rfl,
    ?_, ?_⟩, ⟨{ serving with slots := serving.slots.set .i0 ⟨some ⟨.loader, .read .b32 0, .i0, 0⟩, .i1, Quad.const false⟩ },
    rfl, rfl, ?_, ?_⟩⟩
  · intro c cl h
    cases c <;> cases h
    decide
  · intro i o h
    cases i <;> cases h
  · intro c cl h _
    cases c <;> cases h
    rfl
  · intro i o h
    cases i <;> cases h
  · intro i o h _
    cases i <;> cases h
    rfl
  · intro c cl h
    cases c <;> cases h

/-- Two Idle ports hold requests and a port in Reset holds one, in Serving: the first two are ready, the third is not. -/
def threeHeld : State :=
  let r := readRequest selDirect 0x40 .b4
  { ((((serving.setPort .u3 .reset).setLink .u1 (some r)).setLink .u3 (some r)).setLink .u4 (some r)) with
    presetLines := (PerPort.const false).set .u3 true }

theorem test_hyp_EventEndsQuietly :
    (Quiet serving ∧ NothingWaits serving)
    ∧ (threeHeld.mode = .serving ∧ ReadyToAccept .u1 threeHeld ∧ ReadyToAccept .u4 threeHeld ∧ ¬ ReadyToAccept .u3 threeHeld)
    ∧ ({ serving with mode := .draining } : State).mode = .draining ∧ State.reset.mode = .loading
    ∧ (requestOf (.plainRead .u1 0 .b4) = some (.u1, readRequest selPlain 0 .b4) ∧ threeHeld.ports.get .u1 = .idle
      ∧ threeHeld.presetLines.get .u1 = false) :=
  ⟨⟨quiet_serving, rfl, forPorts (by decide)⟩,
    ⟨rfl, ⟨by decide, rfl, rfl, rfl⟩, ⟨by decide, rfl, rfl, rfl⟩, fun h => absurd h.2.1 (by decide)⟩, rfl, rfl, rfl, rfl, rfl⟩

/-- R120: at a load completion both Idle ports accept, whichever comes first, and the port in Reset keeps its request waiting. -/
theorem test_load_completion_accepts :
    let s : State := loadComplete .fallback { threeHeld with mode := .loading }
    (acceptFromLink .u4 (acceptFromLink .u1 s)).ports = (acceptFromLink .u1 (acceptFromLink .u4 s)).ports
    ∧ (acceptFromLink .u4 (acceptFromLink .u1 s)).ports.get .u1 =
      .readWait (readRequest selDirect 0x40 .b4) ⟨0, ⟨false, false, true, false, false⟩⟩ (.pass false)
    ∧ readyPorts s = [.u1, .u4] := by decide

theorem test_hyp_ResetAbandonsEverythingThenLoads : State.reset.resetLine = true := rfl

theorem test_hyp_RefusalChangesNothing :
    (requestOf (.plainWrite .u1 0x1001 .b2 0) = some (.u1, writeRequest selPlain 0x1001 .b2 0)
      ∧ accessCheck (windowTable serving.config) .u1 (writeRequest selPlain 0x1001 .b2 0) = .refuse .misaligned
      ∧ Accepting .u1 serving)
    ∧ (4 ≤ (4 : BitVec 4).toNat ∧ 4 ≤ (15 : BitVec 4).toNat) :=
  ⟨⟨rfl, by decide, accepting_serving .u1⟩, by decide⟩

/-- A device in Loading, a port in Reset, PRESETp asserted, each with a request on the link or none; and a request held while a
grant is made. -/
theorem test_hyp_WithheldRequestStaysOnLink :
    requestOf (.directRead .u1 0 .b4) = some (.u1, readRequest selDirect 0 .b4)
    ∧ State.reset.mode ≠ .serving
    ∧ (serving.setPort .u1 .reset).ports.get .u1 ≠ .idle
    ∧ { serving with presetLines := PerPort.const true }.presetLines.get .u1 = true
    ∧ ((serving.setLink .u1 (some (readRequest selPlain 0 .b4))).links.get .u1 = some (readRequest selPlain 0 .b4)
      ∧ (∀ r', requestOf .grant ≠ some (.u1, r')) ∧ Instr.grant ≠ .presetAssert .u1
      ∧ ∃ t, exec .grant (serving.setLink .u1 (some (readRequest selPlain 0 .b4))) = .next t) :=
  ⟨rfl, by decide, by decide, by decide, rfl, (fun _ h => by cases h), by decide, _, rfl⟩

/-- A hit on a Valid and on a Prefetched entry, a join, and a miss, in the Buffered window 2; a hit in the Stream window 1; a set
with E2 the lowest Empty entry and one with none Empty and E0 least recent. -/
theorem test_hyp_PlainReadHitsJoinsOrMisses :
    accessCheck (windowTable serving.config) .u1 (readRequest selPlain 0x2004 .b4) = .pass ⟨2, bufferedAttrs⟩
    ∧ (Accepting .u1 (withLine .i3 (.valid (lineOf 0x2004) 7))
      ∧ ((withLine .i3 (.valid (lineOf 0x2004) 7)).lineSets.get .u1).lookup (lineOf 0x2004) = some .i3
      ∧ ((withLine .i3 (.valid (lineOf 0x2004) 7)).lineSets.get .u1).entries.get .i3 = .valid (lineOf 0x2004) 7)
    ∧ (Accepting .u1 (withLine .i0 (.prefetched (lineOf 0x2004) 7))
      ∧ ((withLine .i0 (.prefetched (lineOf 0x2004) 7)).lineSets.get .u1).lookup (lineOf 0x2004) = some .i0)
    ∧ (Accepting .u1 (withLine .i1 (.filling (lineOf 0x2004) ⟨.prefetch, true, true, false⟩))
      ∧ ((withLine .i1 (.filling (lineOf 0x2004) ⟨.prefetch, true, true, false⟩)).lineSets.get .u1).lookup (lineOf 0x2004) =
        some .i1)
    ∧ (Accepting .u1 serving ∧ (serving.lineSets.get .u1).lookup (lineOf 0x2004) = none)
    ∧ (accessCheck (windowTable serving.config) .u1 (readRequest selPlain 0x1004 .b4) = .pass ⟨1, streamAttrs⟩
      ∧ streamAttrs.buffered = true
      ∧ ((withLine .i0 (.valid (lineOf 0x1004) 7)).lineSets.get .u1).lookup (lineOf 0x1004) = some .i0)
    ∧ (let ls : LineSet := ⟨⟨.valid 0 0, .filling 32 ⟨.demand, false, false, false⟩, .empty, .empty⟩, [.i0]⟩;
      ls.entries.get .i2 = .empty
      ∧ ∀ e' ∈ Ix4.all.takeWhile fun x => decide (x ≠ .i2), ls.entries.get e' ≠ .empty)
    ∧ (let ls : LineSet := ⟨⟨.valid 0 0, .valid 32 0, .valid 64 0, .valid 96 0⟩, [.i2, .i3, .i1, .i0]⟩;
      (∀ e', ls.entries.get e' ≠ .empty) ∧ ls.order = [.i2, .i3, .i1] ++ [.i0]) :=
  ⟨by decide, ⟨⟨rfl, rfl, rfl, rfl⟩, by decide, by decide⟩, ⟨⟨rfl, rfl, rfl, rfl⟩, by decide⟩,
    ⟨⟨rfl, rfl, rfl, rfl⟩, by decide⟩, ⟨accepting_serving .u1, by decide⟩, ⟨by decide, rfl, by decide⟩, by decide,
    forPlaces (by decide), rfl⟩

theorem test_hyp_PassReadsAreOffered :
    Accepting .u1 serving
    ∧ accessCheck (windowTable serving.config) .u1 (readRequest selDirect 0x1000 .b32) = .pass ⟨1, streamAttrs⟩
    ∧ accessCheck (windowTable serving.config) .u1 (readRequest selPlain 0xFFF .b1) = .pass ⟨0, plainAttrs⟩ :=
  ⟨accepting_serving .u1, by decide, by decide⟩

/-- A claim read at the end of window 2; a read of its line that misses, one that hits and one that joins, and a window without
Buffered. -/
theorem test_hyp_ClaimReadArmsAndReads :
    Accepting .u1 serving
    ∧ accessCheck (windowTable serving.config) .u1 (readRequest selClaim 0x2FFC .b4) = .pass ⟨2, bufferedAttrs⟩
    ∧ (readRequest selClaim 0x2004 .b4).upAddr.extractLsb' 0 28 = 0x2004 ∧ lineOf 0x2004 = 0x2000
    ∧ plainAttrs.buffered = false ∧ bufferedAttrs.buffered = true
    ∧ (serving.lineSets.get .u1).lookup 0x2000 = none
    ∧ ((withLine .i3 (.prefetched 0x2000 7)).lineSets.get .u1).lookup 0x2000 = some .i3
    ∧ ((withLine .i1 (.filling 0x2000 ⟨.prefetch, true, true, false⟩)).lineSets.get .u1).lookup 0x2000 = some .i1 :=
  ⟨accepting_serving .u1, by decide, by decide, by decide, rfl, rfl, by decide, by decide, by decide⟩

/-- A port that holds a claim, one that finds C1 the lowest free entry, and one that finds the table full. -/
theorem test_hyp_ArmingFollowsStatus :
    withClaim.claimStatus.get .u1 = .held .i0
    ∧ ((∀ c', withClaim.claimStatus.get .u2 ≠ .held c') ∧ withClaim.claimTable.get .i1 = none
      ∧ ∀ c' ∈ Ix4.all.takeWhile fun x => decide (x ≠ .i1), withClaim.claimTable.get c' ≠ none)
    ∧ ∃ s : State, (∀ c', s.claimStatus.get .u2 ≠ .held c') ∧ ∀ c, s.claimTable.get c ≠ none :=
  ⟨rfl, ⟨forPlaces (by decide), by decide, by decide⟩,
    { serving with claimTable := Quad.const (some ⟨.u1, 0, none, 0⟩) }, forPlaces (by decide), forPlaces (by decide)⟩

/-- The line before the last of window 1's granule, and the last line of memory, which has no next line. -/
theorem test_hyp_PrefetchFollowsServedRead :
    (streamAttrs.stream = true ∧ (0x1FC0 : Addr).toNat < 0xFFFFFE0
      ∧ (∃ w, windowOf (windowTable serving.config) (0x1FC0 + 32) = some (1, w))
      ∧ (serving.lineSets.get .u1).lookup (0x1FC0 + 32) = none
      ∧ (∀ e l f, (serving.lineSets.get .u1).entries.get e = .filling l f → f.cls ≠ .prefetch)
      ∧ serving.mode = .serving ∧ ∀ e ∈ serving.queue, e.line ≠ 0x1FC0 + 32)
    ∧ ¬ (0xFFFFFE0 : Addr).toNat < 0xFFFFFE0 := by
  refine ⟨⟨rfl, by decide, ⟨⟨1, 1, streamAttrs, PerPort.const true, PerPort.const true⟩, by decide⟩, by decide, ?_,
    rfl, by decide⟩, by decide⟩
  intro e l f h
  cases e <;> cases h

/-- Room for exactly one more: 13 entries of the ports and 2 FaultPosts. -/
def almostFull : State :=
  withQueue (List.replicate 2 ⟨0, .u2, 0x0F00040, .faultPost ⟨1, 1, .storeError, 0⟩, false⟩
    ++ List.replicate 13 (storeEntry 0 false true))

/-- The tail of `almostFull` is a settled Store: nothing merges into it. -/
theorem no_posted_tail (front : List Entry) (serial : Nat) (p : Port) (target : Addr) (m : Mask) (old : LineData) :
    almostFull.queue ≠ front ++ [⟨serial, p, target, .store m old false, false⟩] := by
  intro h
  have h2 : almostFull.queue.getLast? = some (storeEntry 0 false true) := rfl
  rw [h, List.getLast?_append] at h2
  cases h2

theorem test_hyp_PostedPlainWriteIsAdmitted :
    Accepting .u1 almostFull
    ∧ accessCheck (windowTable almostFull.config) .u1 (writeRequest selPlain 0x1FFF .b1 0xFF) = .pass ⟨1, streamAttrs⟩
    ∧ (∀ front serial m old, almostFull.queue ≠ front ++ [⟨serial, .u1, lineOf 0x1FFF, .store m old false, false⟩])
    ∧ almostFull.waiting = [] ∧ almostFull.queue.length + 1 ≤ 16 ∧ nonFaultPosts almostFull + 1 ≤ 14 :=
  ⟨⟨rfl, rfl, rfl, rfl⟩, by decide, fun _ _ _ _ => no_posted_tail _ _ _ _ _ _, rfl, by decide, by decide⟩

theorem test_hyp_PostedPlainWriteMerges :
    Accepting .u1 (withQueue [storeEntry 0 false false])
    ∧ accessCheck (windowTable serving.config) .u1 (writeRequest selPlain 0x5F .b1 0xFF) = .pass ⟨0, plainAttrs⟩
    ∧ (withQueue [storeEntry 0 false false]).queue = [] ++ [⟨0, .u1, lineOf 0x5F, .store 0xF 0x11223344 false, false⟩] :=
  ⟨⟨rfl, rfl, rfl, rfl⟩, by decide, by decide⟩

theorem test_hyp_SettledWritesWaitOnTheirStore :
    Accepting .u1 almostFull ∧ almostFull.waiting = [] ∧ almostFull.queue.length + 1 ≤ 16
    ∧ nonFaultPosts almostFull + 1 ≤ 14
    ∧ accessCheck (windowTable almostFull.config) .u1 (writeRequest selPlain 0x3000 .b32 0) = .pass ⟨3, settledAttrs⟩
    ∧ accessCheck (windowTable almostFull.config) .u1 (writeRequest selDirect 0x1000 .b32 0) = .pass ⟨1, streamAttrs⟩ :=
  ⟨⟨rfl, rfl, rfl, rfl⟩, rfl, by decide, by decide, by decide, by decide⟩

/-- A claim write finds room for one alone, a Tally read finds a port waiting, and a posted Plain write with no tail to merge
into finds a port waiting. -/
theorem test_hyp_WritesWithoutRoomWait :
    (requestOf (.claimWrite .u1 0x2000 .b4 1) = some (.u1, writeRequest selClaim 0x2000 .b4 1)
      ∧ (writeRequest selClaim 0x2000 .b4 1).usesQueue = true ∧ Accepting .u1 almostFull
      ∧ accessCheck (windowTable almostFull.config) .u1 (writeRequest selClaim 0x2000 .b4 1) = .pass ⟨2, bufferedAttrs⟩
      ∧ (writeRequest selClaim 0x2000 .b4 1).upAddr.extractLsb' 28 4 ≠ 0
      ∧ 14 < nonFaultPosts almostFull + (writeRequest selClaim 0x2000 .b4 1).need
      ∧ 16 < almostFull.queue.length + (writeRequest selClaim 0x2000 .b4 1).need)
    ∧ (requestOf (.tallyRead .u1 0x2000 .b4) = some (.u1, readRequest selTally 0x2000 .b4)
      ∧ (readRequest selTally 0x2000 .b4).usesQueue = true
      ∧ Accepting .u1 { serving with waiting := [.u2] }
      ∧ accessCheck (windowTable serving.config) .u1 (readRequest selTally 0x2000 .b4) = .pass ⟨2, bufferedAttrs⟩
      ∧ (readRequest selTally 0x2000 .b4).op ≠ .write)
    ∧ (requestOf (.plainWrite .u1 0x40 .b4 1) = some (.u1, writeRequest selPlain 0x40 .b4 1)
      ∧ (writeRequest selPlain 0x40 .b4 1).usesQueue = true
      ∧ accessCheck (windowTable serving.config) .u1 (writeRequest selPlain 0x40 .b4 1) = .pass ⟨0, plainAttrs⟩
      ∧ plainAttrs.settled = false
      ∧ ∀ front e, ({ serving with waiting := [.u2] } : State).queue ≠ front ++ [e]) :=
  ⟨⟨rfl, by decide, ⟨rfl, rfl, rfl, rfl⟩, by decide, by decide, by decide, by decide⟩,
    ⟨rfl, by decide, ⟨rfl, rfl, rfl, rfl⟩, by decide, by decide⟩, rfl, by decide, by decide, rfl,
    fun front _ h => by cases front <;> cases h⟩

theorem test_hyp_TallyRequestsAreAdmitted :
    Accepting .u1 almostFull ∧ almostFull.waiting = [] ∧ almostFull.queue.length + 1 ≤ 16
    ∧ nonFaultPosts almostFull + 1 ≤ 14
    ∧ accessCheck (windowTable almostFull.config) .u1 (writeRequest selTally 0x2FFC .b4 1) = .pass ⟨2, bufferedAttrs⟩
    ∧ accessCheck (windowTable almostFull.config) .u1 (writeRequest selTally 0x3000 .b4 1) = .pass ⟨3, settledAttrs⟩
    ∧ accessCheck (windowTable almostFull.config) .u1 (readRequest selTally 0x3000 .b4) = .pass ⟨3, settledAttrs⟩ :=
  ⟨⟨rfl, rfl, rfl, rfl⟩, rfl, by decide, by decide, by decide, by decide, by decide⟩

/-- Room for exactly two more, with port 1 Held on the line and on another line. -/
theorem test_hyp_ClaimWriteIsDecidedAndAdmitted :
    let q : List Entry :=
      List.replicate 12 (storeEntry 0 false true)
        ++ List.replicate 2 ⟨0, .u2, 0x0F00040, .faultPost ⟨1, 1, .storeError, 0⟩, false⟩
    let s : State := { withClaim with queue := q }
    Accepting .u1 s ∧ s.config = .loaded testSetup ∧ s.waiting = [] ∧ s.queue.length + 2 ≤ 16 ∧ nonFaultPosts s + 2 ≤ 14
    ∧ accessCheck (windowTable s.config) .u1 (writeRequest selClaim 0x2000 .b32 1) = .pass ⟨2, bufferedAttrs⟩
    ∧ accessCheck (windowTable s.config) .u1 (writeRequest selClaim 0x3000 .b32 1) = .pass ⟨3, settledAttrs⟩
    ∧ decideCode s .u1 (lineOf 0x2000) = .committed ∧ decideCode s .u1 (lineOf 0x3000) ≠ .committed
    ∧ s.claimStatus.get .u1 = .held .i0 ∧ ∀ c, s.claimStatus.get .u2 ≠ .held c :=
  ⟨⟨rfl, rfl, rfl, rfl⟩, rfl, rfl, by decide, by decide, by decide, by decide, by decide, by decide, rfl,
    forPlaces (by decide)⟩

theorem test_hyp_OutcomeFollowsClaimStatus :
    (withClaim.claimStatus.get .u1 = .held .i0 ∧ withClaim.claimTable.get .i0 = some ⟨.u1, 0x2000, some 40, 1⟩)
    ∧ (∀ r, (serving.setStatus .u2 (.lapsed r 0x2000)).claimStatus.get .u2 = .lapsed r 0x2000)
    ∧ serving.claimStatus.get .u0 = .none :=
  ⟨⟨rfl, rfl⟩, fun _ => rfl, rfl⟩

theorem test_hyp_AdmissionDropsLineEverywhere :
    (let s := withLine .i0 (.valid 0x2000 7);
      (∃ t, t = makeVisible 0x2000 s) ∧ (0x2000 : Addr) = lineOf 0x201F
      ∧ (s.lineSets.get .u1).entries.get .i0 = .valid 0x2000 7 ∧ (s.lineSets.get .u1).order = [.i0])
    ∧ ((withLine .i0 (.prefetched 0x2000 7)).lineSets.get .u1).entries.get .i0 = .prefetched 0x2000 7
    ∧ ((withLine .i0 (.filling 0x2000 ⟨.demand, true, false, false⟩)).lineSets.get .u1).entries.get .i0 =
      .filling (lineOf 0x201F) ⟨.demand, true, false, false⟩
    ∧ ((withLine .i0 (.filling 0x2000 ⟨.prefetch, false, false, false⟩)).lineSets.get .u1).entries.get .i0 =
      .filling (lineOf 0x2000) ⟨.prefetch, false, false, false⟩
    ∧ ((withLine .i0 (.filling 0x2000 ⟨.demand, false, false, false⟩)).lineSets.get .u1).entries.get .i0 =
      .filling (lineOf 0x2000) ⟨.demand, false, false, false⟩
    ∧ (serving.lineSets.get .u1).entries.get .i0 = .empty :=
  ⟨⟨⟨_, rfl⟩, by decide, by decide, by decide⟩, by decide, by decide, by decide, by decide, by decide⟩

/-- R52: the entry on the line leaves the recency order and the others keep theirs. -/
theorem test_recency_order_is_kept :
    (LineSet.afterAdmission 0x2000 ⟨⟨.valid 0x1000 0, .valid 0x2000 0, .prefetched 0x3000 0, .valid 0x4000 0⟩,
      [.i2, .i1, .i3, .i0]⟩).order = [.i2, .i3, .i0] := by decide

theorem test_hyp_AdmissionBreaksClaimsOnItsLine :
    ClaimLaw withClaim ∧ withClaim.claimTable.get .i0 ≠ none
    ∧ ∃ p target body t, (0x2000 : Addr) = lineOf target ∧ t = admitEntry p target body withClaim :=
  ⟨claimLaw_withClaim, by decide, .u1, 0x2004, .count, _, by decide, rfl⟩

theorem test_hyp_WriteBytesLandAtTheirPositions :
    Size.b32.bytes ∣ (0xFFFFFE0 : Addr).toNat ∧ Size.b1.bytes ∣ (0xFFFFFFF : Addr).toNat ∧ 31 < 32
    ∧ (bytesFrom (lineOfWords 0x44332211 0 0 0 0 0 0 0) 1 2)[1]? = some 0x33 := by decide

/-- A first member whose need fits exactly, one whose need does not; staged faults of U5 with 15 entries; 16 entries with a
member waiting, in Serving and in Draining; faults of U0 and U5 staged with U2 waiting, 14 places taken by the ports and none. -/
theorem test_hyp_PassAdmitsFaultsAndFirstWaiters :
    (let s : State := { (almostFull.setPort .u2 (.spaceWait (writeRequest selPlain 0x3000 .b4 0) ⟨3, settledAttrs⟩)) with
        waiting := [.u2] };
      Quiet s ∧ (∀ p, s.staging.get p = none)
      ∧ (nonFaultPosts s + (writeRequest selPlain 0x3000 .b4 0).need ≤ 14
        ∧ s.queue.length + (writeRequest selPlain 0x3000 .b4 0).need ≤ 16)
      ∧ 14 < nonFaultPosts s + (writeRequest selClaim 0x3000 .b4 0).need)
    ∧ (let s : State := almostFull.setStaging .u5 (some ⟨1, 255, .storeError, 0x40⟩);
      s.config = .loaded testSetup ∧ s.staging.get .u5 = some ⟨1, 255, .storeError, 0x40⟩
      ∧ (∀ q : Port, q.index < Port.index .u5 → s.staging.get q = none) ∧ s.queue.length < 16)
    ∧ (let s : State := { (withQueue (List.replicate 16 (storeEntry 0 false true))).setPort .u2
          (.spaceWait (writeRequest selPlain 0x3000 .b4 0) ⟨3, settledAttrs⟩) with waiting := [.u2] };
      Quiet s ∧ 16 ≤ s.queue.length
      ∧ 16 < s.queue.length + (writeRequest selPlain 0x3000 .b4 0).need
      ∧ s.ports.get .u2 = .spaceWait (writeRequest selPlain 0x3000 .b4 0) ⟨3, settledAttrs⟩
      ∧ ({ s with mode := .draining } : State).mode = .draining ∧ serving.waiting = [])
    ∧ (∀ n, n = 0 ∨ n = 14 →
      let s : State := { (((withQueue (List.replicate n (storeEntry 0 false true))).setStaging .u0
          (some ⟨1, 1, .storeError, 0x40⟩)).setStaging .u5 (some ⟨1, 255, .storeError, 0x40⟩)).setPort .u2
          (.spaceWait (writeRequest selPlain 0x3000 .b4 0) ⟨3, settledAttrs⟩) with waiting := [.u2] }
      Quiet s ∧ s.config = .loaded testSetup ∧ Port.index .u0 < Port.index .u5
      ∧ s.staging.get .u0 = some ⟨1, 1, .storeError, 0x40⟩ ∧ s.staging.get .u5 = some ⟨1, 255, .storeError, 0x40⟩
      ∧ (∀ x, x ≠ .u0 → x ≠ .u5 → s.staging.get x = none) ∧ s.queue.length + 2 ≤ 16
      ∧ (n = 0 → nonFaultPosts s + 1 ≤ 14) ∧ (n = 14 → 14 < nonFaultPosts s + 1))
    ∧ ((writeRequest selPlain 0x3004 .b4 1).upAddr.extractLsb' 28 4 = 0
      ∧ (writeRequest selDirect 0x3004 .b4 1).upAddr.extractLsb' 28 4 = 1
      ∧ (writeRequest selClaim 0x3004 .b4 1).upAddr.extractLsb' 28 4 = 2
      ∧ (readRequest selTally 0x3004 .b4).upAddr.extractLsb' 28 4 = 3
      ∧ withClaim.config = .loaded testSetup
      ∧ decideCode withClaim .u1 0x2000 = .committed ∧ decideCode withClaim .u1 0x3000 ≠ .committed) := by
  refine ⟨⟨⟨rfl, forPorts (by decide)⟩, forPorts (by decide), by decide, by decide⟩,
    ⟨rfl, rfl, forPorts (by decide), by decide⟩, ⟨⟨rfl, forPorts (by decide)⟩, by decide, by decide, by decide, rfl, rfl⟩, ?_,
    ⟨by decide, by decide, by decide, by decide, rfl, by decide, by decide⟩⟩
  · rintro n (rfl | rfl) <;>
      exact ⟨⟨rfl, forPorts (by decide)⟩, rfl, by decide, rfl, rfl, forPorts (by decide), by decide, by decide, by decide⟩

/-- A head urged by the threshold, by a port in SettleWait, by a held demand read, and a head with no demand read. -/
theorem test_hyp_GrantIssuesTheHead :
    let s := withQueue [storeEntry 0 false true, storeEntry 1 false true, storeEntry 2 false true, storeEntry 3 false true]
    let w := s.setPort .u2 (.settleWait (writeRequest selDirect 0x40 .b4 0) ⟨0, plainAttrs⟩ 3)
    let h := s.setPort .u2 (.readWait (readRequest selDirect 0x44 .b4) ⟨0, plainAttrs⟩ (.pass false))
    lowestFreeSlot s = some .i0 ∧ s.mode ≠ .loading ∧ s.queue.head? = some (storeEntry 0 false true)
    ∧ (∀ j o, (s.slots.get j).occupant = some o → o.owner.ofQueue = false)
    ∧ urgeOf s.config ≤ s.queue.length
    ∧ w.ports.get .u2 = .settleWait (writeRequest selDirect 0x40 .b4 0) ⟨0, plainAttrs⟩ 3
    ∧ (waitingDemand .u2 h = some ⟨.pass .u2, .read .b4 0x44⟩ ∧ ∃ x ∈ h.queue, x.line = memRequestLine (.read .b4 0x44))
    ∧ ∀ p, demandCandidate p s = false := by
  refine ⟨by decide, by decide, by decide, ?_, by decide, rfl, ⟨by decide, storeEntry 0 false true, by decide, by decide⟩,
    forPorts (by decide)⟩
  intro j o h
  cases j <;> cases h

/-- A slot for each generation that may be the first not stale, and a state whose lowest free slot is S3. -/
theorem test_hyp_GrantIssuesTheHead_slots :
    (let sl : Slot := ⟨none, .i3, ⟨true, true, false, true⟩⟩;
      sl.stale.get sl.nextGen = true ∧ sl.stale.get sl.nextGen.next = true ∧ sl.stale.get sl.nextGen.next.next = true
      ∧ sl.stale.get sl.nextGen.next.next.next = false)
    ∧ lowestFreeSlot { serving with slots := ⟨⟨none, .i0, Quad.const true⟩, ⟨none, .i0, Quad.const true⟩,
        ⟨none, .i0, Quad.const true⟩, Slot.initial⟩ } = some .i3 := by decide

/-- A pass read alone; a demand fill alone; a prefetch alone; a head that is a candidate and one that is urged. -/
theorem test_hyp_GrantIssuesReadsRoundRobin :
    (let s := serving.setPort .u0 (.readWait (readRequest selDirect 0x44 .b4) ⟨0, plainAttrs⟩ (.pass false));
      lowestFreeSlot s = some .i0 ∧ s.mode ≠ .loading ∧ urgedHead s = none
      ∧ roundRobin s.demandPtr (fun q => demandCandidate q s) = some .u0
      ∧ s.ports.get .u0 = .readWait (readRequest selDirect 0x44 .b4) ⟨0, plainAttrs⟩ (.pass false)
      ∧ waitingDemand .u0 s = some ⟨.pass .u0, .read .b4 0x44⟩)
    ∧ (let s := (withLine .i2 (.filling 0x1020 ⟨.demand, false, false, false⟩)).setPort .u1
          (.readWait (readRequest selPlain 0x1024 .b4) ⟨1, streamAttrs⟩ (.fill .i2));
      lowestFreeSlot s = some .i0 ∧ urgedHead s = none
      ∧ roundRobin s.demandPtr (fun q => demandCandidate q s) = some .u1
      ∧ waitingDemand .u1 s = some ⟨.fill .u1 .i2, .read .b32 0x1020⟩)
    ∧ (let s := withLine .i2 (.filling 0x1020 ⟨.prefetch, false, false, false⟩);
      lowestFreeSlot s = some .i0 ∧ s.mode ≠ .loading ∧ urgedHead s = none
      ∧ roundRobin s.demandPtr (fun q => demandCandidate q s) = none ∧ headCandidate s = none
      ∧ roundRobin s.prefetchPtr (fun q => prefetchCandidate q s) = some .u1
      ∧ (s.lineSets.get .u1).waitingPrefetch = some .i2
      ∧ (s.lineSets.get .u1).entries.get .i2 = .filling 0x1020 ⟨.prefetch, false, false, false⟩)
    ∧ headCandidate (withQueue [storeEntry 0 false true]) = some (storeEntry 0 false true)
    ∧ urgedHead arbiter = some ⟨0, .u1, 0x0500000, .store 0xF 1 false, false⟩ := by
  decide

theorem test_hyp_GrantIssuesTheLoadersRead :
    (lowestFreeSlot (startLoading serving) = some .i0 ∧ (startLoading serving).mode = .loading
      ∧ (startLoading serving).loader.offered = true)
    ∧ lowestFreeSlot { serving with slots := Quad.const ⟨none, .i0, Quad.const true⟩ } = none
    ∧ State.reset.mode = .loading ∧ State.reset.loader.offered = false :=
  ⟨⟨by decide, rfl, rfl⟩, by decide, rfl, rfl⟩

/-- Port 1 waits on the issued fill in E2. -/
def fillState (f : Fill) : State :=
  withOp (.fill .u1 .i2) (.read .b32 0x2000)
    ((withLine .i2 (.filling 0x2000 f)).setPort .u1
      (.readWait (readRequest selPlain 0x201C .b4) ⟨2, bufferedAttrs⟩ (.fill .i2)))

theorem live_fill (f : Fill) : LiveOwner tag0 (.fill .u1 .i2) (fillState f) := ⟨_, rfl, rfl⟩

theorem test_hyp_FillCompletionInstallsTheLine :
    LiveOwner tag0 (.fill .u1 .i2) (fillState ⟨.demand, true, false, false⟩)
    ∧ ((fillState ⟨.demand, true, false, false⟩).lineSets.get .u1).entries.get .i2 =
      .filling 0x2000 ⟨.demand, true, false, false⟩
    ∧ (fillState ⟨.demand, true, false, false⟩).ports.get .u1 =
      .readWait (readRequest selPlain 0x201C .b4) ⟨2, bufferedAttrs⟩ (.fill .i2)
    ∧ bufferedAttrs.stream = false
    ∧ LiveOwner tag0 (.fill .u1 .i2) (fillState ⟨.prefetch, true, false, false⟩)
    ∧ ((fillState ⟨.prefetch, true, false, false⟩).lineSets.get .u1).entries.get .i2 =
      .filling 0x2000 ⟨.prefetch, true, false, false⟩
    ∧ (let s := overtaking ⟨.demand, true, false, false⟩
        (.readWait (readRequest selPlain 0x1028 .b1) ⟨1, streamAttrs⟩ (.fill .i1));
      LiveOwner tag0 (.fill .u2 .i1) s
      ∧ s.ports.get .u2 = .readWait (readRequest selPlain 0x1028 .b1) ⟨1, streamAttrs⟩ (.fill .i1)
      ∧ streamAttrs.stream = true) :=
  ⟨live_fill _, rfl, rfl, rfl, live_fill _, rfl, ⟨_, rfl, rfl⟩, rfl, rfl⟩

theorem test_hyp_FillCompletionWithoutInstall :
    ∀ f : Fill, LiveOwner tag0 (.fill .u1 .i2) (fillState f)
      ∧ ((fillState f).lineSets.get .u1).entries.get .i2 = .filling 0x2000 f
      ∧ (fillState f).ports.get .u1 =
        .readWait (readRequest selPlain 0x201C .b4) ⟨2, bufferedAttrs⟩ (.fill .i2) :=
  fun f => ⟨live_fill f, rfl, rfl⟩

theorem test_hyp_PassReadCompletionAnswersThePort :
    let s := withOp (.pass .u1) (.read .b4 0x40)
      (serving.setPort .u1 (.readWait (readRequest selDirect 0x40 .b4) ⟨0, plainAttrs⟩ (.pass true)))
    LiveOwner tag0 (.pass .u1) s
    ∧ s.ports.get .u1 = .readWait (readRequest selDirect 0x40 .b4) ⟨0, plainAttrs⟩ (.pass true) :=
  ⟨⟨_, rfl, rfl⟩, rfl⟩

theorem live_head (owner : Owner) (q : List Entry) : LiveOwner tag0 owner (headInFlight owner q) := ⟨_, rfl, rfl⟩

theorem test_hyp_StoreCompletionEndsTheStore :
    (∀ settled, LiveOwner tag0 .lineWrite (headInFlight .lineWrite [storeEntry 0 true settled])
      ∧ (headInFlight .lineWrite [storeEntry 0 true settled]).queue.head? = some (storeEntry 0 true settled)
      ∧ (storeEntry 0 true settled).body = .store 0xF 0x11223344 settled)
    ∧ (serving.setPort .u1 (.settleWait (writeRequest selDirect 0x40 .b4 1) ⟨0, plainAttrs⟩ 0)).ports.get .u1 =
      .settleWait (writeRequest selDirect 0x40 .b4 1) ⟨0, plainAttrs⟩ 0
    ∧ (serving.setPort .u1 (.countWait (readRequest selTally 0x2004 .b4) ⟨2, bufferedAttrs⟩ 0)).ports.get .u1 =
      .countWait (readRequest selTally 0x2004 .b4) ⟨2, bufferedAttrs⟩ 0
    ∧ ∀ r v, (serving.setPort .u1 (.settleWait (writeRequest selDirect 0x40 .b4 1) ⟨0, plainAttrs⟩ 1)).ports.get .u1 ≠
        .settleWait r v 0
      ∧ (serving.setPort .u1 (.settleWait (writeRequest selDirect 0x40 .b4 1) ⟨0, plainAttrs⟩ 1)).ports.get .u1 ≠
        .countWait r v 0 :=
  ⟨fun _ => ⟨live_head .., rfl, rfl⟩, rfl, rfl, fun _ _ => ⟨(fun h => by cases h), (fun h => by cases h)⟩⟩

theorem test_hyp_CommitCompletionRewritesTheOutcome :
    ∀ settled,
      let e : Entry := ⟨0, .u1, 0x2000, .commit 0xF 1 settled, true⟩
      let o : Entry := ⟨1, .u1, 0x0F00020, .outcome ⟨1, .committed, .b4, 0x2000⟩, false⟩
      LiveOwner tag0 .lineWrite (headInFlight .lineWrite [e, o]) ∧ (headInFlight .lineWrite [e, o]).queue = e :: o :: [] :=
  fun _ => ⟨live_head .., rfl⟩

theorem test_hyp_OutcomeCompletionMayLoseTheRecord :
    let e : Entry := ⟨1, .u1, 0x0F00020, .outcome ⟨1, .committed, .b4, 0x2000⟩, true⟩
    LiveOwner tag0 .lineWrite (headInFlight .lineWrite [e]) ∧ (headInFlight .lineWrite [e]).queue.head? = some e :=
  ⟨live_head .., rfl⟩

/-- Sums of −1, 0, 2^32 − 1 and 2^32: where the cases of R71 meet. -/
theorem test_hyp_LockedUpdateArithmetic :
    ((0 : Word).toNat : Int) + (-1 : Word).toInt = -1 ∧ ((1 : Word).toNat : Int) + (-1 : Word).toInt = 0
    ∧ ((0xFFFFFFFE : Word).toNat : Int) + (1 : Word).toInt = 2 ^ 32 - 1
    ∧ ((0xFFFFFFFF : Word).toNat : Int) + (1 : Word).toInt = 2 ^ 32
    ∧ (0xFFFFFFFE : Word).toNat < 0xFFFFFFFF ∧ (0xFFFFFFFF : Word).toNat = 0xFFFFFFFF := by decide

/-- R74, R77: byte 0 of a word is its lowest, in the line and in the answer. -/
theorem test_word_bytes :
    byteAt (wordLineData 0x44332211 28) 28 = 0x11 ∧ byteAt (wordLineData 0x44332211 28) 31 = 0x44
    ∧ wordBytes 0x44332211 = [0x11, 0x22, 0x33, 0x44] := by decide

theorem test_hyp_ReadPhaseOfAWordIssuesItsWrite :
    let add : Entry := ⟨0, .u1, 0x2004, .add 5 false, true⟩
    let count : Entry := ⟨0, .u1, 0x2004, .count, true⟩
    LiveOwner tag0 .readPhase (headInFlight .readPhase [add]) ∧ (headInFlight .readPhase [add]).queue.head? = some add
    ∧ LiveOwner tag0 .readPhase (headInFlight .readPhase [count])
    ∧ (headInFlight .readPhase [count]).queue.head? = some count :=
  ⟨live_head .., rfl, live_head .., rfl⟩

def faultEntry : Entry := ⟨0, .u1, 0x0F00020, .faultPost ⟨1, 1, .storeError, 0x40⟩, true⟩

theorem test_hyp_ReadPhaseOfAFaultPostMerges :
    LiveOwner tag0 .readPhase (headInFlight .readPhase [faultEntry])
    ∧ (headInFlight .readPhase [faultEntry]).queue.head? = some faultEntry :=
  ⟨live_head .., rfl⟩

theorem test_hyp_RecordBytesAreWrittenByField :
    byteAt (0 : LineData) 10 = 0 ∧ byteAt (lineOfWords 0 0 0x00FF0000 0 0 0 0 0) 10 ≠ 0 := by decide

theorem test_hyp_WritePhaseOfAWordEndsTheUpdate :
    ∀ body, LiveOwner tag0 .writePhase
        { headInFlight .writePhase [⟨0, .u1, 0x2004, body, true⟩] with engine := .writing 0 (.word 4 5 false) }
      ∧ ({ headInFlight .writePhase [⟨0, .u1, 0x2004, body, true⟩] with
          engine := .writing 0 (.word 4 5 false) } : State).queue.head? = some ⟨0, .u1, 0x2004, body, true⟩ :=
  fun _ => ⟨⟨_, rfl, rfl⟩, rfl⟩

theorem test_hyp_FaultPostEndPulsesOrLoses :
    ∀ mark, LiveOwner tag0 .writePhase { headInFlight .writePhase [faultEntry] with notifyMark := some mark }
      ∧ ({ headInFlight .writePhase [faultEntry] with notifyMark := some mark } : State).queue.head? = some faultEntry :=
  fun _ => ⟨⟨_, rfl, rfl⟩, rfl⟩

/-- The header of the example block, a header with a wrong mark, a middle line and the last line. -/
theorem test_hyp_LoaderReadCompletionAdvancesTheLoad :
    LiveOwner tag0 .loader (withOp .loader (.read .b32 0) (startLoading serving))
    ∧ (startLoading serving).loader.phase = .header
    ∧ headerPasses ((startLoading serving).loader.block ++ [lineOfWords 0x3A71C5E2 0x04060101 0 0 0 0 0 0]) = true
    ∧ headerPasses ((startLoading serving).loader.block ++ [lineOfWords 0x3A71C5E3 0x04060101 0 0 0 0 0 0]) = false
    ∧ (offerLine 1 2 serving).loader.phase = .line 1 2 ∧ (offerLine 2 2 serving).loader.phase = .line 2 2 :=
  ⟨⟨_, rfl, rfl⟩, rfl, by decide, by decide, rfl, rfl⟩

theorem test_hyp_LoadCompletionInstallsTheResult :
    (State.reset.reloadLatch = false ∧ { State.reset with reloadLatch := true }.reloadLatch = true)
    ∧ (let s : State := { (threeHeld.setLink .u4 none) with mode := .loading };
      s.reloadLatch = false ∧ s.links.get .u1 = some (readRequest selDirect 0x40 .b4) ∧ s.ports.get .u1 = .idle
      ∧ s.presetLines.get .u1 = false
      ∧ ∀ q, q ≠ .u1 → s.links.get q = none ∨ s.ports.get q ≠ .idle ∨ s.presetLines.get q = true)
    ∧ (State.reset.mode = .loading ∧ State.reset.config = .fallback)
    ∧ (serving.mode ≠ .loading ∧ serving.config = .loaded testSetup) :=
  ⟨⟨rfl, rfl⟩, ⟨rfl, rfl, rfl, rfl, forPorts (by decide)⟩, ⟨rfl, rfl⟩, by decide, rfl⟩

/-- The block of section 11.2 meets every check; both words and descriptors are in range. -/
theorem test_hyp_SetupBlockIsCheckedByField :
    exampleBlock[1]? = some (lineOfWords 0 0x0000FFFF 0x3F3F0005 0 0x798838F1 0 0 0)
    ∧ loadResult exampleBlock = .loaded (setupOf exampleBlock)
    ∧ ∃ win, (setupOf exampleBlock).windows[0]? = some win :=
  ⟨rfl, by decide, _, rfl⟩

theorem test_hyp_DiscardedCompletionsReachNoBlock :
    liveOp tag0 serving = none ∧ LiveOwner tag0 .discarded (withOp .discarded (.read .b4 0) serving) :=
  ⟨rfl, _, rfl, rfl⟩

theorem test_hyp_TimeoutAbandonsTheOperation :
    (∃ o, liveOp tag0 (withOp .readPhase (.read .b4 0) serving) = some o)
    ∧ (∀ f, LiveOwner tag0 (.fill .u1 .i2) (fillState f)
      ∧ ((fillState f).lineSets.get .u1).entries.get .i2 = .filling 0x2000 f
      ∧ (fillState f).ports.get .u1 = .readWait (readRequest selPlain 0x201C .b4) ⟨2, bufferedAttrs⟩ (.fill .i2))
    ∧ (let s := withOp (.pass .u1) (.read .b4 0x40)
        (serving.setPort .u1 (.readWait (readRequest selDirect 0x40 .b4) ⟨0, plainAttrs⟩ (.pass true)));
      LiveOwner tag0 (.pass .u1) s
      ∧ s.ports.get .u1 = .readWait (readRequest selDirect 0x40 .b4) ⟨0, plainAttrs⟩ (.pass true))
    ∧ (∀ settled, LiveOwner tag0 .lineWrite (headInFlight .lineWrite [storeEntry 0 true settled])
      ∧ (headInFlight .lineWrite [storeEntry 0 true settled]).queue.head? = some (storeEntry 0 true settled))
    ∧ (∀ settled,
      let e : Entry := ⟨0, .u1, 0x2000, .commit 0xF 1 settled, true⟩
      let o : Entry := ⟨1, .u1, 0x0F00020, .outcome ⟨1, .committed, .b4, 0x2000⟩, false⟩
      LiveOwner tag0 .lineWrite (headInFlight .lineWrite [e, o]) ∧ (headInFlight .lineWrite [e, o]).queue = e :: o :: [])
    ∧ (∀ body, LiveOwner tag0 .readPhase (headInFlight .readPhase [⟨0, .u1, 0x2004, body, true⟩])
      ∧ LiveOwner tag0 .writePhase (headInFlight .writePhase [⟨0, .u1, 0x2004, body, true⟩])
      ∧ (headInFlight .readPhase [⟨0, .u1, 0x2004, body, true⟩]).queue.head? = some ⟨0, .u1, 0x2004, body, true⟩)
    ∧ LiveOwner tag0 .loader (withOp .loader (.read .b32 0) (startLoading serving))
    ∧ LiveOwner tag0 .discarded (withOp .discarded (.read .b4 0) serving)
    ∧ liveOp tag0 serving = none :=
  ⟨⟨_, rfl⟩, fun f => ⟨live_fill f, rfl, rfl⟩, ⟨⟨_, rfl, rfl⟩, rfl⟩, fun _ => ⟨live_head .., rfl⟩, fun _ => ⟨live_head .., rfl⟩,
    fun _ => ⟨live_head .., live_head .., rfl⟩, ⟨_, rfl, rfl⟩, ⟨_, rfl, rfl⟩, rfl⟩

theorem test_hyp_ReportIsAbsorbed :
    serving.staging.get .u1 = none
    ∧ (serving.setStaging .u1 (some ⟨1, 255, .storeError, 0⟩)).staging.get .u1 = some ⟨1, 255, .storeError, 0⟩ :=
  ⟨rfl, rfl⟩

theorem test_hyp_HoldExpiryLapsesTheClaim :
    withClaim.claimTable.get .i0 = some ⟨.u1, 0x2000, some 40, 1⟩
    ∧ ∀ cl, withClaim.claimTable.get .i0 = some cl → cl.order ≠ 0 := by
  refine ⟨rfl, fun cl h => ?_⟩
  cases h
  decide

/-- In Serving with a read in flight and with nothing in hand, in Loading, in Draining, and while RESET is asserted. -/
theorem test_hyp_ReloadEdgeActsByMode :
    (withClaim.resetLine = false ∧ withClaim.mode = .serving ∧ ClaimLaw withClaim ∧ NothingInHand withClaim)
    ∧ ¬ NothingInHand (withOp .discarded (.read .b4 0) withClaim)
    ∧ ((startLoading serving).resetLine = false ∧ (startLoading serving).mode = .loading)
    ∧ ((drainStart serving).resetLine = false ∧ (drainStart serving).mode = .draining)
    ∧ State.reset.resetLine = true ∧ State.reset.mode = .loading :=
  ⟨⟨rfl, rfl, claimLaw_withClaim, forPorts (by decide), rfl, forPorts (by decide), forPlaces (by decide)⟩,
    fun h => absurd (h.2.2.2 .i0) (by decide), ⟨rfl, rfl⟩, by decide, rfl, rfl⟩

theorem test_hyp_DrainCompletionEntersLoading :
    let s : State := { serving with mode := .draining }
    (s.mode = .draining ∧ (∀ p, s.ports.get p = .idle ∨ s.ports.get p = .reset) ∧ s.queue = []
      ∧ (∀ p, s.staging.get p = none) ∧ (∀ i, (s.slots.get i).occupant = none)
      ∧ ∀ p, (s.lineSets.get p).waitingPrefetch = none)
    ∧ serving.mode ≠ .draining ∧ (withQueue [storeEntry 0 true false]).queue ≠ [] :=
  ⟨⟨rfl, forPorts (by decide), rfl, forPorts (by decide), forPlaces (by decide), forPorts (by decide)⟩, by decide, by decide⟩

/-- A port that holds a claim, first in the waiting list and not, with a request on its link; while RESET is asserted; and with
the line asserted already. -/
theorem test_hyp_PresetAssertResetsOnePort :
    withClaim.presetLines.get .u1 = false ∧ withClaim.resetLine = false ∧ Quiet withClaim ∧ ClaimLaw withClaim
    ∧ withClaim.waiting.head? ≠ some .u1
    ∧ (let s : State := { withClaim with waiting := [.u1] };
      Quiet s ∧ ClaimLaw s ∧ s.waiting.head? = some .u1)
    ∧ ((withClaim.setLink .u1 (some (readRequest selPlain 0x40 .b4))).links.get .u1 ≠ none
      ∧ ClaimLaw (withClaim.setLink .u1 (some (readRequest selPlain 0x40 .b4))))
    ∧ (State.reset.presetLines.get .u1 = false ∧ State.reset.resetLine = true)
    ∧ ({ serving with presetLines := PerPort.const true } : State).presetLines.get .u1 = true :=
  ⟨rfl, rfl, ⟨rfl, forPorts (by decide)⟩, claimLaw_withClaim, by decide, ⟨⟨rfl, forPorts (by decide)⟩, claimLaw_withClaim,
    rfl⟩, ⟨by decide, claimLaw_withClaim⟩, ⟨rfl, rfl⟩, rfl⟩

/-- Port 1 in Reset without and with a request on its link, while a second port in Reset holds one; in the other modes; with the
port not in Reset; with the line released. -/
theorem test_hyp_PresetReleaseMakesThePortIdle :
    let s : State := { ((serving.setPort .u1 .reset).setPort .u2 .reset).setLink .u2 (some (readRequest selPlain 0x80 .b4)) with
      presetLines := ((PerPort.const false).set .u1 true).set .u2 true }
    let h : State := s.setLink .u1 (some (readRequest selPlain 0x40 .b4))
    (s.presetLines.get .u1 = true ∧ s.ports.get .u1 = .reset ∧ s.mode = .serving ∧ s.links.get .u1 = none
      ∧ s.links.get .u2 ≠ none ∧ (∀ q, q ≠ .u1 → ¬ ReadyToAccept q s)
      ∧ (∀ q, q ≠ .u1 → ¬ ReadyToAccept q h) ∧ h.links.get .u1 = some (readRequest selPlain 0x40 .b4))
    ∧ (∀ m, let u : State := { h with mode := m }; u.presetLines.get .u1 = true ∧ u.ports.get .u1 = .reset ∧ u.mode = m)
    ∧ (let u : State := { State.reset with presetLines := PerPort.const true };
      u.presetLines.get .u1 = true ∧ u.ports.get .u1 ≠ .reset ∧ u.mode = .loading)
    ∧ serving.presetLines.get .u1 = false := by
  have no : ∀ (t : State) (p : Port), (t.links.get p = none ∨ t.ports.get p = .reset) → ¬ ReadyToAccept p t := by
    rintro t p (h | h) ⟨g1, g2, _⟩
    · exact g1 h
    · rw [h] at g2
      cases g2
  exact ⟨⟨rfl, rfl, rfl, rfl, by decide, forPorts (by simp; exact ⟨no _ _ (.inl rfl), no _ _ (.inr rfl), no _ _ (.inl rfl),
    no _ _ (.inl rfl), no _ _ (.inl rfl)⟩), forPorts (by simp; exact ⟨no _ _ (.inl rfl), no _ _ (.inr rfl), no _ _ (.inl rfl),
    no _ _ (.inl rfl), no _ _ (.inl rfl)⟩), rfl⟩, fun _ => ⟨rfl, rfl, rfl⟩, ⟨rfl, by decide, rfl⟩, rfl⟩

theorem loaderLaw_serving : LoaderLaw serving := by
  refine ⟨fun _ => ⟨rfl, ?_⟩, ?_, ?_⟩
  · intro i o h
    cases i <;> cases h
  · intro i j o o' h
    cases i <;> cases h
  · intro h
    cases h

/-- Every step answers a next state: the hypothesis of the laws that every step keeps. -/
theorem steps_serving : ∃ t, step serving = .next t := ⟨_, rfl⟩

theorem test_hyp_StepKeepsTheQueueLaws :
    ∃ s t, RoomLaw s ∧ commitsPaired s.queue = true ∧ s.queue ≠ [] ∧ step s = .next t :=
  ⟨withQueue [⟨0, .u1, 0x2000, .commit 0xF 1 false, false⟩,
    ⟨1, .u1, 0x0F00020, .outcome ⟨1, .committed, .b4, 0x2000⟩, false⟩], _, ⟨by decide, by decide⟩, rfl, by decide, rfl⟩

theorem test_hyp_StepKeepsTheWaitingList :
    ∃ s t, WaitingLaw s ∧ s.waiting = [.u2] ∧ step s = .next t :=
  ⟨{ serving.setPort .u2 (.spaceWait (writeRequest selPlain 0x3000 .b4 0) ⟨3, settledAttrs⟩) with waiting := [.u2] }, _,
    ⟨by decide, forPorts (by simp [InSpaceWait, serving, State.reset, State.setPort, PerPort.const, PerPort.set, PerPort.get]),
      forPorts ⟨trivial, trivial, (by decide : (writeRequest selPlain 0x3000 .b4 0).usesQueue = true), trivial, trivial, trivial⟩⟩,
    rfl, rfl⟩

theorem test_hyp_StepKeepsTheClaimLaws :
    ClaimLaw withClaim ∧ LoaderLaw serving ∧ NoClaimOutsideServing withClaim ∧ ∃ t, step withClaim = .next t :=
  ⟨claimLaw_withClaim, loaderLaw_serving, fun h => absurd rfl h, _, rfl⟩

theorem test_hyp_StepKeepsTheSlotLaws :
    LiveTagsNotStale (headInFlight .lineWrite [storeEntry 0 true false]) ∧ LoaderLaw serving
    ∧ ∃ t, step (headInFlight .lineWrite [storeEntry 0 true false]) = .next t := by
  refine ⟨?_, loaderLaw_serving, _, rfl⟩
  intro i o h
  cases i <;> cases h
  rfl

theorem test_hyp_StepKeepsTheLineSetLaw : LineSetLaw serving ∧ ∃ t, step serving = .next t := by
  refine ⟨forPorts ?_, steps_serving⟩
  have h : LinesDistinct LineSet.allEmpty ∧ RecencyExact LineSet.allEmpty := by
    refine ⟨?_, by decide, forPlaces (by decide)⟩
    intro e e' l h
    cases e <;> cases h
  exact ⟨h, h, h, h, h, h⟩

theorem test_hyp_StepKeepsTheReadHoldLaw : ReadHoldLaw serving ∧ ∃ t, step serving = .next t := by
  refine ⟨⟨?_, ?_, ?_, ?_, ?_⟩, steps_serving⟩
  · intro p e l h
    cases p <;> cases e <;> cases h
  · intro p e l h
    cases p <;> cases e <;> cases h
  · intro i j h
    cases i <;> cases h
  · intro i o h
    cases i <;> cases h
  · intro i j o o' h
    cases i <;> cases h

theorem test_hyp_StepKeepsThePresetLaw :
    let s : State := { serving.setPort .u1 .reset with presetLines := (PerPort.const false).set .u1 true }
    PresetLaw s ∧ ∃ t, step s = .next t :=
  ⟨fun _ => forPorts (by decide), _, rfl⟩

theorem test_hyp_ModeAndConfigurationMoveAsListed :
    LoaderLaw serving ∧ (∃ t, exec .reloadEdge serving = .next t) ∧ serving.pending = [] ∧ ∃ t, step serving = .next t :=
  ⟨loaderLaw_serving, ⟨_, rfl⟩, rfl, _, rfl⟩

end Sys2Proof.Tests
end

section
/-! What an expiry of a hold timer does to the claim state, and the decision that follows a lapse (R34, R39). -/

namespace Sys2Proof.Machine

theorem lapseClaim_of_some {c : Ix4} {s : State} {cl : Claim} (reason : LapseReason)
    (hc : s.claimTable.get c = some cl) :
    lapseClaim reason c s = (s.setClaim c none).setStatus cl.owner (.lapsed reason cl.line) := by
  simp only [lapseClaim, hc]

theorem takeHoldExpiry_of_due {c : Ix4} {stamp : BitVec 8} {s : State} {cl : Claim}
    (hc : s.claimTable.get c = some cl) (hdue : cl.order = stamp) :
    takeHoldExpiry c stamp s = lapseClaim .expired c s := by
  simp only [takeHoldExpiry, hc, if_pos hdue]

/-- An expiry of an entry that is free, or was armed again after the expiry was raised, is discarded (R26). -/
theorem takeHoldExpiry_of_not_due {c : Ix4} {stamp : BitVec 8} {s : State}
    (hstale : ∀ cl, s.claimTable.get c = some cl → cl.order ≠ stamp) :
    takeHoldExpiry c stamp s = s := by
  unfold takeHoldExpiry
  cases hc : s.claimTable.get c with
  | none => rfl
  | some cl => exact if_neg (hstale cl hc)

theorem decideCode_of_lapsed {s : State} {p : Port} {reason : LapseReason} {line : Addr}
    (hs : s.claimStatus.get p = .lapsed reason line) : decideCode s p line = reason.code := by
  simp only [decideCode, hs, if_true]

theorem decideCode_setStatus_lapsed (s : State) (p : Port) (reason : LapseReason) (line : Addr) :
    decideCode (s.setStatus p (.lapsed reason line)) p line = reason.code :=
  decideCode_of_lapsed (PerPort.get_set_same s.claimStatus p _)

/-- HOLD_EXPIRY is the taking of the expiry in a new event, and nothing follows it in that event. -/
theorem exec_holdExpiry (c : Ix4) (stamp : BitVec 8) (s : State) :
    exec (.holdExpiry c stamp) s = .next (takeHoldExpiry c stamp (beginEvent s)) := rfl

/-- Settles O47: an expiry that is due is the lapse with reason Expired, and the decision reads the status the lapse wrote;
any other expiry leaves the state of the new event as it is. -/
theorem holdExpiryLapsesTheClaim : Obligations.HoldExpiryLapsesTheClaim := by
  intro c stamp s
  constructor
  · intro cl hc hdue
    have hlapse : takeHoldExpiry c stamp (beginEvent s) =
        ((beginEvent s).setClaim c none).setStatus cl.owner (.lapsed .expired cl.line) :=
      (takeHoldExpiry_of_due (s := beginEvent s) hc hdue).trans (lapseClaim_of_some .expired hc)
    refine ⟨_, exec_holdExpiry c stamp s, hlapse, ?_⟩
    rw [hlapse]
    exact decideCode_setStatus_lapsed _ cl.owner .expired cl.line
  · intro hstale
    rw [exec_holdExpiry, takeHoldExpiry_of_not_due (s := beginEvent s) hstale]
    rfl

end Sys2Proof.Machine
end

section
/-! The window of an address (R105): the number-counting search, and one window for each line. -/

namespace Sys2Proof.Machine

/-! ### The line of an address -/

/-- The mask of `lineOf` keeps bits 5 and above. -/
theorem lineOf_eq_shift (a : Addr) : lineOf a = a >>> 5 <<< 5 := by
  have hmask : 0xFFFFFE0#28 = BitVec.allOnes 28 <<< 5 := by decide
  unfold lineOf
  rw [hmask]
  ext i hi
  by_cases h5 : i < 5
  · simp only [BitVec.getElem_and, BitVec.getElem_shiftLeft, h5, decide_true, Bool.not_true, Bool.false_and, Bool.and_false]
  · have hsub : 5 + (i - 5) = i := by omega
    simp only [BitVec.getElem_and, BitVec.getElem_shiftLeft, BitVec.getElem_ushiftRight, BitVec.getElem_allOnes, h5,
      decide_false, Bool.not_false, Bool.true_and, Bool.and_true, hsub, BitVec.getLsbD_eq_getElem hi]

theorem lineOf_toNat (a : Addr) : (lineOf a).toNat = a.toNat / 32 * 32 := by
  rw [lineOf_eq_shift, BitVec.toNat_shiftLeft, BitVec.toNat_ushiftRight, Nat.shiftRight_eq_div_pow, Nat.shiftLeft_eq]
  omega

/-! ### What a window contains -/

theorem Window.holds_iff (w : Window) (a : Addr) :
    w.holds a = true ↔ w.base.toNat * 4096 ≤ a.toNat ∧ a.toNat ≤ w.limit.toNat * 4096 + 4095 :=
  decide_eq_true_iff

/-- Windows begin and end on granules, which are whole lines. -/
theorem Window.holds_lineOf (w : Window) (a : Addr) : w.holds (lineOf a) = w.holds a := by
  rw [Bool.eq_iff_iff, Window.holds_iff, Window.holds_iff, lineOf_toNat]
  omega

/-! ### The search -/

theorem findWindow_congr {a b : Addr} (h : ∀ w : Window, w.holds a = w.holds b) (table : List Window) (k : Nat) :
    findWindow table k a = findWindow table k b := by
  induction table generalizing k with
  | nil => rfl
  | cons w ws ih => simp only [findWindow, h, ih]

theorem findWindow_eq_none_iff (table : List Window) (k : Nat) (a : Addr) :
    findWindow table k a = none ↔ ∀ w ∈ table, ¬ w.holds a = true := by
  induction table generalizing k with
  | nil => simp [findWindow]
  | cons w ws ih =>
    by_cases hw : w.holds a = true <;> simp [findWindow, hw, ih]

/-- Member n of the list is the window found, under number k + n, exactly when it is the first that contains the address. -/
theorem findWindow_eq_some_iff (table : List Window) (k i : Nat) (a : Addr) (w : Window) :
    findWindow table k a = some (i, w) ↔
      ∃ n, i = k + n ∧ table[n]? = some w ∧ w.holds a = true
        ∧ ∀ j w', j < n → table[j]? = some w' → ¬ w'.holds a = true := by
  induction table generalizing k with
  | nil => simp [findWindow]
  | cons v ws ih =>
    by_cases hv : v.holds a = true
    · simp only [findWindow, hv, if_true, Option.some.injEq, Prod.mk.injEq]
      constructor
      · rintro ⟨rfl, rfl⟩
        exact ⟨0, rfl, rfl, hv, fun j _ hj => absurd hj j.not_lt_zero⟩
      · rintro ⟨n, rfl, hn, -, hfirst⟩
        cases n with
        | zero => exact ⟨rfl, Option.some.inj hn⟩
        | succ n => exact absurd hv (hfirst 0 v n.succ_pos rfl)
    · rw [findWindow, if_neg hv, ih]
      constructor
      · rintro ⟨n, rfl, hn, hw, hfirst⟩
        refine ⟨n + 1, by omega, hn, hw, fun j w' hj hw' => ?_⟩
        cases j with
        | zero => rwa [← Option.some.inj hw']
        | succ j => exact hfirst j w' (Nat.lt_of_succ_lt_succ hj) hw'
      · rintro ⟨n, rfl, hn, hw, hfirst⟩
        cases n with
        | zero => exact absurd (Option.some.inj hn ▸ hw) hv
        | succ n => exact ⟨n, by omega, hn, hw, fun j w' hj => hfirst (j + 1) w' (Nat.succ_lt_succ hj)⟩

theorem windowOf_lineOf (table : List Window) (a : Addr) : windowOf table (lineOf a) = windowOf table a :=
  findWindow_congr (fun w => w.holds_lineOf a) table 0

theorem windowOf_eq_none_iff (table : List Window) (a : Addr) :
    windowOf table a = none ↔ ∀ w ∈ table, ¬ w.holds a = true :=
  findWindow_eq_none_iff table 0 a

theorem windowOf_eq_some_iff (table : List Window) (a : Addr) (i : Nat) (w : Window) :
    windowOf table a = some (i, w) ↔
      table[i]? = some w ∧ w.holds a = true ∧ ∀ j w', j < i → table[j]? = some w' → ¬ w'.holds a = true := by
  simp [windowOf, findWindow_eq_some_iff]

/-- Settles O8: the search's own characterisation (by induction over the table), with containment written out. -/
theorem windowIsLowestThatContains : Obligations.WindowIsLowestThatContains := by
  intro table a
  simp only [← Window.holds_iff]
  exact ⟨fun i w => windowOf_eq_some_iff table a i w, windowOf_eq_none_iff table a, (windowOf_lineOf table a).symm⟩

end Sys2Proof.Machine
end

section
/-! The access checks in the terms of the manual (R107, R108), and what a refusal leaves (R109). -/

namespace Sys2Proof

theorem Size.bytes_ne_four_iff (n : Size) : n.bytes ≠ 4 ↔ n ≠ .b4 := by
  cases n <;> decide

end Sys2Proof

namespace Sys2Proof.Machine

open Sys2Proof.Safety

/-! ### The views (R103) -/

theorem viewOf_eq_void_iff (sel : BitVec 4) : viewOf sel = .void ↔ 4 ≤ sel.toNat := by
  revert sel; decide

theorem viewOf_eq_claim_iff (sel : BitVec 4) : viewOf sel = .claim ↔ sel.toNat = 2 := by
  revert sel; decide

theorem viewOf_eq_tally_iff (sel : BitVec 4) : viewOf sel = .tally ↔ sel.toNat = 3 := by
  revert sel; decide

theorem selectorOf_upAddrOf (sel : BitVec 4) (a : Addr) : selectorOf (upAddrOf sel a) = sel :=
  BitVec.extractLsb'_append_eq_left

/-! ### The conditions of the checks -/

theorem viewDenied_iff (v : View) (attrs : Attributes) :
    viewDenied v attrs = true ↔ (v = .claim ∧ attrs.claimOK = false) ∨ (v = .tally ∧ attrs.tallyOK = false) := by
  cases v <;> simp [viewDenied]

theorem Request.needsRead_iff (r : Request) : r.needsRead = true ↔ r.op = .read := decide_eq_true_iff

theorem Request.needsWrite_iff (r : Request) : r.needsWrite = true ↔ r.op = .write ∨ r.view = .tally := by
  simp [Request.needsWrite]

/-! ### The checks, one after another -/

section
variable {table : List Window} {p : Port} {r : Request}

theorem accessCheck_of_void (h : r.view = .void) : accessCheck table p r = .refuse .voidView := if_pos h

theorem accessCheck_of_misaligned (hv : r.view ≠ .void) (h : ¬ r.size.bytes ∣ r.addr.toNat) :
    accessCheck table p r = .refuse .misaligned := by
  rw [accessCheck, if_neg hv, if_pos (mt Nat.dvd_of_mod_eq_zero h)]

theorem accessCheck_of_badSize (hv : r.view ≠ .void) (ha : r.size.bytes ∣ r.addr.toNat)
    (h : r.view = .tally ∧ r.size.bytes ≠ 4) : accessCheck table p r = .refuse .badSize := by
  have hsize : r.view = .tally ∧ r.size ≠ .b4 := ⟨h.1, r.size.bytes_ne_four_iff.mp h.2⟩
  rw [accessCheck, if_neg hv, if_neg (not_not.mpr (Nat.mod_eq_zero_of_dvd ha)), if_pos hsize]

/-- Checks 1 to 3 pass and no window contains the address (R108, check 4). -/
theorem accessCheck_of_unmapped (hv : r.view ≠ .void) (ha : r.size.bytes ∣ r.addr.toNat)
    (hs : ¬ (r.view = .tally ∧ r.size.bytes ≠ 4)) (hw : windowOf table r.addr = none) :
    accessCheck table p r = .refuse .unmapped := by
  rw [r.size.bytes_ne_four_iff] at hs
  rw [accessCheck, if_neg hv, if_neg (not_not.mpr (Nat.mod_eq_zero_of_dvd ha)), if_neg hs, hw]

/-- Checks 1 to 4 pass, and the window of the address decides with checks 5 to 7 (R107, R108). -/
theorem accessCheck_of_window (hv : r.view ≠ .void) (ha : r.size.bytes ∣ r.addr.toNat)
    (hs : ¬ (r.view = .tally ∧ r.size.bytes ≠ 4)) {i : Nat} {w : Window} (hw : windowOf table r.addr = some (i, w)) :
    accessCheck table p r =
      if (r.view = .claim ∧ w.attrs.claimOK = false) ∨ (r.view = .tally ∧ w.attrs.tallyOK = false) then
        .refuse .viewDenied
      else if r.op = .read ∧ w.readPorts.get p = false then .refuse .readDenied
      else if (r.op = .write ∨ r.view = .tally) ∧ w.writePorts.get p = false then .refuse .writeDenied
      else .pass ⟨i, w.attrs⟩ := by
  rw [r.size.bytes_ne_four_iff] at hs
  rw [accessCheck, if_neg hv, if_neg (not_not.mpr (Nat.mod_eq_zero_of_dvd ha)), if_neg hs]
  simp only [hw, viewDenied_iff, Bool.and_eq_true, Bool.not_eq_true', Request.needsRead_iff, Request.needsWrite_iff]

end

/-- Settles O7: the selector's value names the view, and each branch of the chain is the lemma of its check. -/
theorem accessChecksInOrder : Obligations.AccessChecksInOrder := by
  rintro table p r sel a rfl rfl
  have hvoid : r.view = .void ↔ 4 ≤ (r.upAddr.extractLsb' 28 4).toNat := viewOf_eq_void_iff _
  have hclaim : r.view = .claim ↔ (r.upAddr.extractLsb' 28 4).toNat = 2 := viewOf_eq_claim_iff _
  have htally : r.view = .tally ↔ (r.upAddr.extractLsb' 28 4).toNat = 3 := viewOf_eq_tally_iff _
  have haddr : r.upAddr.extractLsb' 0 28 = r.addr := rfl
  simp only [← hvoid, ← hclaim, ← htally, haddr]
  split
  next hv => exact accessCheck_of_void hv
  next hv =>
    split
    next ha => exact accessCheck_of_misaligned hv ha
    next ha =>
      rw [not_not] at ha
      split
      next hs => exact accessCheck_of_badSize hv ha hs
      next hs =>
        cases hw : windowOf table r.addr with
        | none => exact accessCheck_of_unmapped hv ha hs hw
        | some found =>
          obtain ⟨i, w⟩ := found
          dsimp only
          rw [accessCheck_of_window hv ha hs hw]
          split_ifs <;> rfl

/-! ### A refused request -/

/-- The nine commands that present a request do so in a new event, and do nothing else. -/
theorem exec_of_requestOf {c : Instr} {p : Port} {r : Request} (h : requestOf c = some (p, r)) (s : State) :
    exec c s = .next (present p r (beginEvent s)) := by
  cases c <;> cases h <;> rfl

theorem exec_of_accepting {c : Instr} {p : Port} {r : Request} {s : State} (hc : requestOf c = some (p, r))
    (h : Accepting p s) : exec c s = .next (accept p r (beginEvent s)) := by
  obtain ⟨hidle, hmode, hpreset, hlink⟩ := h
  have hcan : canAccept p (beginEvent s) = true := by
    simp [canAccept, beginEvent, hidle, hmode, hpreset]
  rw [exec_of_requestOf hc, present_accept p r (beginEvent s) hlink hcan]

/-- A refused request presented to a port that accepts: its answer is all the event does (R109). -/
theorem exec_of_refused {c : Instr} {p : Port} {r : Request} {s : State} {reason : RefuseReason}
    (hc : requestOf c = some (p, r)) (h : Accepting p s)
    (hcheck : accessCheck (windowTable s.config) p r = .refuse reason) :
    exec c s = .next { s with outs := [.response p (.refused reason)] } := by
  rw [exec_of_accepting hc h, accept_refuse p r (beginEvent s) reason hcheck]
  rfl

/-- Settles O6: the acceptance itself, then the command that presents, then the void selectors as refusals of the first
check. -/
theorem refusalChangesNothing : Obligations.RefusalChangesNothing := by
  constructor
  · intro p r s reason hcheck
    exact ⟨accept_refuse p r s reason hcheck, fun c hc h => exec_of_refused hc h hcheck⟩
  · intro p sel op a size d s hsel h
    have hvoid : (⟨op, upAddrOf sel a, size, d⟩ : Request).view = .void := by
      rw [Request.view, selectorOf_upAddrOf, viewOf_eq_void_iff]
      exact hsel
    exact exec_of_refused rfl h (accessCheck_of_void hvoid)

end Sys2Proof.Machine
end

section
/-! A law that every move keeps is a law every step keeps. -/

namespace Sys2Proof.Machine

open Sys2Proof.Safety

/-- A law that does not read the command queue, kept by every move of an event that began under the law `L`, is kept by
every step taken under `L`. -/
theorem step_keeps {L P : State → Prop} (hL : ∀ s q, L s → L { s with pending := q })
    (hP : ∀ s q, P s → P { s with pending := q })
    (hmove : ∀ (s0 : Event) (u v : State), L s0.start → Move s0 u v → P u → P v)
    {s t : State} (ht : step s = .next t) (hl : L s) (hs : P s) : P t := by
  obtain ⟨t', q, c, hstep, hm⟩ := step_moves s
  rw [hstep] at ht
  cases ht
  exact hm.keep (fun u v => hmove _ u v (hL s q hl)) (hP s q hs)

end Sys2Proof.Machine
end

section
/-! Frames of the commands' operations that Laws/Ops.lean leaves out. -/

namespace Sys2Proof.Machine

/-- The drain's start changes the mode, the line sets and the claim state alone (R175). -/
theorem drainStart_frame (s : State) :
    drainStart s =
      { s with
        mode := .draining
        lineSets := s.lineSets.map LineSet.afterDrainStart
        claimTable := (drainStart s).claimTable
        claimStatus := (drainStart s).claimStatus } := by
  unfold drainStart
  rw [dropClaims_frame]

/-- A port's reset changes the port, its line set and line, its claim state and counter, the waiting list and the owners
of its reads alone (R127). -/
theorem resetPort_frame (p : Port) (s : State) :
    resetPort p s =
      { s with
        ports := s.ports.set p .reset
        lineSets := s.lineSets.set p LineSet.allEmpty
        presetLines := s.presetLines.set p true
        waiting := s.waiting.filter fun q => decide (q ≠ p)
        slots := s.slots.map (Slot.discardFor p)
        claimTable := (resetPort p s).claimTable
        claimStatus := (resetPort p s).claimStatus
        writeCounter := s.writeCounter.set p 0 } := by
  unfold resetPort
  rw [clearClaim_frame]
  rfl

end Sys2Proof.Machine
end

section
/-! The queue laws (R3, R9): what they read of an entry is its port and its kind, and both survive every rewriting of
entries in place. -/

namespace Sys2Proof.Machine

open Sys2Proof.Safety

/-! ### What the laws read of an entry -/

/-- The kinds that the laws of R3 and R9 tell apart. -/
inductive EntryKind where
  | commit | outcome | faultPost | other
  deriving DecidableEq

def EntryBody.kind : EntryBody → EntryKind
  | .commit _ _ _ => .commit
  | .outcome _ => .outcome
  | .faultPost _ => .faultPost
  | _ => .other

/-- The port and the kind of an entry. -/
def Entry.tag (e : Entry) : Port × EntryKind := (e.port, e.body.kind)

theorem Entry.isFaultPost_eq (e : Entry) : e.isFaultPost = decide (e.tag.2 = .faultPost) := by
  obtain ⟨_, _, _, body, _⟩ := e
  cases body <;> rfl

theorem isOutcomeOf_eq (p : Port) (e : Entry) : isOutcomeOf p e = decide (e.tag = (p, .outcome)) := by
  obtain ⟨_, q, _, body, _⟩ := e
  cases body <;> simp [isOutcomeOf, Entry.tag, EntryBody.kind]

theorem nonFaultPosts_eq (s : State) :
    nonFaultPosts s = (s.queue.map Entry.tag).countP fun x => decide (x.2 ≠ .faultPost) := by
  rw [List.countP_map]
  exact List.countP_congr fun e _ => by simp [Entry.isFaultPost_eq]

/-- R3 reads the tags alone. -/
theorem roomLaw_of_tags {s t : State} (h : t.queue.map Entry.tag = s.queue.map Entry.tag) (hs : RoomLaw s) :
    RoomLaw t := by
  have hlen : t.queue.length = s.queue.length := by simpa using congrArg List.length h
  simpa only [RoomLaw, occupancy, nonFaultPosts_eq, h, hlen] using hs

theorem commitsPaired_cons (e : Entry) (q : List Entry) :
    commitsPaired (e :: q) = true ↔
      (e.body.kind = .commit → q.head?.map Entry.tag = some (e.port, .outcome)) ∧ commitsPaired q = true := by
  obtain ⟨_, p, _, body, _⟩ := e
  cases body <;> simp [commitsPaired, EntryBody.kind]
  cases q <;> simp [isOutcomeOf_eq]

/-- R9 reads the tags alone. -/
theorem commitsPaired_of_tags {q q' : List Entry} (h : q'.map Entry.tag = q.map Entry.tag) :
    commitsPaired q = true → commitsPaired q' = true := by
  induction q generalizing q' with
  | nil =>
    rw [List.map_nil, List.map_eq_nil_iff] at h
    rw [h]
    exact id
  | cons e q ih =>
    obtain ⟨e', q', rfl, he, hq⟩ := List.map_eq_cons_iff.mp h
    obtain ⟨hport, hkind⟩ := Prod.mk.inj he
    rw [commitsPaired_cons, commitsPaired_cons, ← List.head?_map, ← List.head?_map, hport, hkind, hq]
    exact fun hp => ⟨hp.1, ih hq hp.2⟩

theorem commitsPaired_append {q r : List Entry} (hq : commitsPaired q = true) (hr : commitsPaired r = true) :
    commitsPaired (q ++ r) = true := by
  induction q with
  | nil => exact hr
  | cons e q ih =>
    rw [commitsPaired_cons] at hq
    rw [List.cons_append, commitsPaired_cons]
    refine ⟨fun hc => ?_, ih hq.2⟩
    have hhead := hq.1 hc
    cases q with
    | nil => cases hhead
    | cons => exact hhead

theorem commitsPaired_tail {q : List Entry} (hq : commitsPaired q = true) : commitsPaired q.tail = true := by
  cases q with
  | nil => rfl
  | cons e q => exact ((commitsPaired_cons e q).mp hq).2

/-! ### Rewriting in place -/

theorem Entry.withBytes_tag (e : Entry) (m : Mask) (d : LineData) : (e.withBytes m d).tag = e.tag := by
  obtain ⟨_, _, _, body, _⟩ := e
  cases body <;> rfl

theorem Entry.withFailedCode_tag (e : Entry) : e.withFailedCode.tag = e.tag := by
  obtain ⟨_, _, _, body, _⟩ := e
  cases body <;> rfl

/-- A merge rewrites the tail entry alone. -/
theorem mergeIntoTail_map {α : Type} (f : Entry → α) (m : Mask) (d : LineData) (hf : ∀ e, f (e.withBytes m d) = f e)
    (q : List Entry) : (mergeIntoTail m d q).map f = q.map f := by
  induction q with
  | nil => rfl
  | cons e rest ih =>
    cases rest with
    | nil => simp [mergeIntoTail, hf]
    | cons e' rest => simpa [mergeIntoTail] using ih

/-- A failed Commit rewrites the entry behind it alone (R15). -/
theorem rewriteBehindHead_map {α : Type} (f : Entry → α) (hf : ∀ e : Entry, f e.withFailedCode = f e)
    (q : List Entry) : (rewriteBehindHead q).map f = q.map f := by
  match q with
  | [] => rfl
  | [_] => rfl
  | _ :: _ :: _ => simp [rewriteBehindHead, hf]

theorem markHeadIssued_queue (s : State) :
    (markHeadIssued s).queue = s.queue.modifyHead fun e => { e with issued := true } := by
  unfold markHeadIssued
  cases h : s.queue <;> simp [h]

/-- The issue of the head rewrites the head's issued field alone (R12). -/
theorem markHeadIssued_map {α : Type} (f : Entry → α) (hf : ∀ e : Entry, f { e with issued := true } = f e)
    (s : State) : (markHeadIssued s).queue.map f = s.queue.map f := by
  rw [markHeadIssued_queue]
  cases s.queue <;> simp [hf]

/-! ### Admission -/

@[simp] theorem makeVisible_queue (line : Addr) (s : State) : (makeVisible line s).queue = s.queue := by
  rw [makeVisible_frame]

@[simp] theorem admitEntry_queue (p : Port) (target : Addr) (body : EntryBody) (s : State) :
    (admitEntry p target body s).queue = s.queue ++ [⟨s.nextSerial, p, target, body, false⟩] := by
  rw [admitEntry_frame]

theorem nonFaultPosts_append {s t : State} {e : Entry} (h : t.queue = s.queue ++ [e]) :
    nonFaultPosts t = nonFaultPosts s + if e.isFaultPost then 0 else 1 := by
  unfold nonFaultPosts
  rw [h]
  cases he : e.isFaultPost <;> simp [he]

/-- An entry with room for it keeps R3, and one that is no Commit keeps R9. -/
theorem queueLaws_admitOne (p : Port) (target : Addr) (body : EntryBody) (s : State) (hroom : roomFor body s) :
    (RoomLaw s → RoomLaw (admitEntry p target body s))
      ∧ (commitsPaired s.queue = true → commitsPaired (admitEntry p target body s).queue = true) := by
  have hq := admitEntry_queue p target body s
  have hcount := nonFaultPosts_append hq
  refine ⟨fun ⟨hlen, hnon⟩ => ?_, fun hs => ?_⟩
  · rw [RoomLaw, hcount, occupancy, hq, List.length_append]
    unfold occupancy at hlen
    cases body <;> simp [roomFor, Entry.isFaultPost] at hroom ⊢ <;> omega
  · rw [hq]
    refine commitsPaired_append hs ?_
    cases body with
    | commit => exact hroom.elim
    | _ => rfl

/-- A Commit with the Outcome of its port behind it, with room for both (R3, R9). -/
theorem queueLaws_admitPair (p : Port) (line target : Addr) (m : Mask) (d : LineData) (settled : Bool)
    (c : OutcomeContent) (s : State) (hroom : nonFaultPosts s + 2 ≤ 14 ∧ s.queue.length + 2 ≤ 16) :
    RoomLaw (admitEntry p target (.outcome c) (admitEntry p line (.commit m d settled) s))
      ∧ (commitsPaired s.queue = true →
        commitsPaired (admitEntry p target (.outcome c) (admitEntry p line (.commit m d settled) s)).queue = true) := by
  have hq1 := admitEntry_queue p line (.commit m d settled) s
  have hq2 := admitEntry_queue p target (.outcome c) (admitEntry p line (.commit m d settled) s)
  refine ⟨?_, fun hs => ?_⟩
  · rw [RoomLaw, nonFaultPosts_append hq2, nonFaultPosts_append hq1, occupancy, hq2, hq1]
    simp [Entry.isFaultPost]
    omega
  · rw [hq2, hq1, List.append_assoc]
    exact commitsPaired_append hs (by simp [commitsPaired, isOutcomeOf])

/-! ### The laws along moves -/

/-- What a move can do to the queue: rewrite entries in place, add one entry or a pair, drop the head, or clear it. -/
theorem Move.queueLaws {s0 : Event} {s t : State} (h : Move s0 s t) :
    t.queue.map Entry.tag = s.queue.map Entry.tag
      ∨ (∃ p target body, roomFor body s ∧ t = admitEntry p target body s)
      ∨ (∃ p line target m d settled c, (nonFaultPosts s + 2 ≤ 14 ∧ s.queue.length + 2 ≤ 16)
        ∧ t = admitEntry p target (.outcome c) (admitEntry p line (.commit m d settled) s))
      ∨ t.queue = s.queue.tail ∨ t.queue = [] := by
  cases h with
  | admitOne p target body h => exact .inr (.inl ⟨p, target, body, h, rfl⟩)
  | admitPair p line target m d settled c h => exact .inr (.inr (.inl ⟨p, line, target, m, d, settled, c, h, rfl⟩))
  | dropHead => exact .inr (.inr (.inr (.inl rfl)))
  | holdReset => exact .inr (.inr (.inr (.inr rfl)))
  | releaseReset => exact .inr (.inr (.inr (.inr rfl)))
  | merge p line m d =>
    left
    rw [makeVisible_queue]
    exact mergeIntoTail_map _ m d (fun e => e.withBytes_tag m d) s.queue
  | rewrite => exact .inl (rewriteBehindHead_map _ Entry.withFailedCode_tag s.queue)
  | markHead => exact .inl (markHeadIssued_map _ (fun _ => rfl) s)
  | arm => left; rw [armClaim_frame]
  | expire => left; rw [takeHoldExpiry_frame]
  | consume => left; rw [consumeClaim_frame]
  | drainStart => left; rw [drainStart_frame]
  | reset => left; rw [resetPort_frame]
  | release => left; unfold releasePreset; split <;> rfl
  | loadComplete => left; unfold Machine.loadComplete; dsimp only; split <;> rfl
  | prefetchIssue => left; unfold issuePrefetch; split <;> (try split) <;> rfl
  | _ => exact .inl rfl

theorem Move.keeps_queueLaws {s0 : Event} {s t : State} (h : Move s0 s t) :
    (RoomLaw s → RoomLaw t) ∧ (commitsPaired s.queue = true → commitsPaired t.queue = true) := by
  rcases h.queueLaws with htags | ⟨p, target, body, hroom, rfl⟩ | ⟨p, line, target, m, d, settled, c, hroom, rfl⟩ | hq | hq
  · exact ⟨roomLaw_of_tags htags, commitsPaired_of_tags htags⟩
  · exact queueLaws_admitOne p target body s hroom
  · obtain ⟨hr, hc⟩ := queueLaws_admitPair p line target m d settled c s hroom
    exact ⟨fun _ => hr, hc⟩
  · refine ⟨fun ⟨hlen, hnon⟩ => ?_, fun hs => hq ▸ commitsPaired_tail hs⟩
    rw [RoomLaw, occupancy, nonFaultPosts, hq]
    exact ⟨(List.tail_sublist _).length_le.trans hlen, ((List.tail_sublist _).countP_le).trans hnon⟩
  · exact ⟨fun _ => by simp [RoomLaw, occupancy, nonFaultPosts, hq], fun _ => by simp [hq, commitsPaired]⟩

/-- Settles O53: each move keeps both laws, and a step is a chain of moves. -/
theorem stepKeepsTheQueueLaws : Obligations.StepKeepsTheQueueLaws := by
  intro s t ht
  exact
    ⟨step_keeps (L := fun _ => True) (fun _ _ h => h) (fun _ _ h => h) (fun _ _ _ _ hm => hm.keeps_queueLaws.1) ht trivial,
      step_keeps (L := fun _ => True) (fun _ _ h => h) (fun _ _ h => h) (fun _ _ _ _ hm => hm.keeps_queueLaws.2) ht trivial⟩

end Sys2Proof.Machine
end

section
/-! The ports, the waiting list and the lines: what a move can do to them, and the two laws about them (R4, R119). -/

namespace Sys2Proof.Machine

open Sys2Proof.Safety

/-- The port is Idle, or in a wait other than SpaceWait. -/
def PortState.settled (x : PortState) : Prop := x = .idle ∨ x.waits = true

theorem PortState.settled.not_spaceWait {x : PortState} (h : x.settled) : ¬ InSpaceWait x ∧ SpaceWaitsWrite x := by
  rcases h with rfl | h
  · exact ⟨id, trivial⟩
  · cases x with
    | readWait => exact ⟨id, trivial⟩
    | settleWait => exact ⟨id, trivial⟩
    | countWait => exact ⟨id, trivial⟩
    | idle => cases h
    | spaceWait => cases h
    | reset => cases h

theorem PortState.settled.ne_reset {x : PortState} (h : x.settled) : x ≠ .reset := by
  rcases h with rfl | h
  · exact PortState.noConfusion
  · rintro rfl
    cases h

/-- The PRESET lines and RESET stand as they were. -/
def SameLines (s t : State) : Prop := t.presetLines = s.presetLines ∧ t.resetLine = s.resetLine

/-- What a move can do to the ports, the waiting list and the lines. -/
inductive PortMove (s t : State) : Prop
  | same (hp : t.ports = s.ports) (hw : t.waiting = s.waiting) (hl : SameLines s t)
  | change (p : Port) (x : PortState) (hold : (s.ports.get p).settled) (hnew : x.settled)
      (hp : t.ports = s.ports.set p x) (hw : t.waiting = s.waiting) (hl : SameLines s t)
  | join (p : Port) (r : Request) (v : Verdict) (hold : s.ports.get p = .idle) (hu : r.usesQueue = true)
      (hp : t.ports = s.ports.set p (.spaceWait r v)) (hw : t.waiting = s.waiting ++ [p]) (hl : SameLines s t)
  | leave (p : Port) (rest : List Port) (r : Request) (v : Verdict) (x : PortState) (hfront : s.waiting = p :: rest)
      (hold : s.ports.get p = .spaceWait r v) (hnew : x.settled)
      (hp : t.ports = s.ports.set p x) (hw : t.waiting = rest) (hl : SameLines s t)
  | skip (p : Port) (rest : List Port) (hfront : s.waiting = p :: rest)
      (hidle : ∀ r v, s.ports.get p = .spaceWait r v → r.usesQueue = false)
      (hp : t.ports = s.ports) (hw : t.waiting = rest) (hl : SameLines s t)
  | reset (p : Port) (hp : t.ports = s.ports.set p .reset) (hw : t.waiting = s.waiting.filter fun q => decide (q ≠ p))
      (hl : t.presetLines = s.presetLines.set p true) (hr : t.resetLine = s.resetLine)
  | release (p : Port) (hline : s.presetLines.get p = true)
      (hp : t.ports = if s.ports.get p = .reset then s.ports.set p .idle else s.ports) (hw : t.waiting = s.waiting)
      (hl : t.presetLines = s.presetLines.set p false) (hr : t.resetLine = s.resetLine)
  | lineInReset (hp : t.ports = s.ports) (hw : t.waiting = s.waiting) (hr : t.resetLine = true)
  | holdReset (hp : ∀ p, t.ports.get p = .idle) (hw : t.waiting = []) (hr : t.resetLine = true)
  | releaseReset (hp : ∀ p, t.ports.get p = if t.presetLines.get p then .reset else .idle) (hw : t.waiting = [])

theorem Move.portMove {s0 : Event} {s t : State} (h : Move s0 s t) : PortMove s t := by
  have keep : ∀ u : State, u.ports = s.ports → u.waiting = s.waiting → u.presetLines = s.presetLines →
      u.resetLine = s.resetLine → PortMove s u := fun _ hp hw hl hr => .same hp hw ⟨hl, hr⟩
  cases h with
  | leaveIdle p x h hx => exact .change p x (.inl h) (.inr hx) rfl rfl ⟨rfl, rfl⟩
  | endWait p x h hx => exact .change p x (.inr h) hx rfl rfl ⟨rfl, rfl⟩
  | joinWaiting p r v h hu => exact .join p r v h hu rfl rfl ⟨rfl, rfl⟩
  | leaveWaiting p rest r v x hw h hx => exact .leave p rest r v x hw h hx rfl rfl ⟨rfl, rfl⟩
  | skipWaiting p rest hw h => exact .skip p rest hw h rfl rfl ⟨rfl, rfl⟩
  | reset p hc h hr =>
    refine .reset p ?_ ?_ ?_ ?_ <;> rw [resetPort_frame]
  | release p hc h =>
    refine .release p h ?_ ?_ ?_ ?_ <;> unfold releasePreset <;> split <;> rfl
  | presetInReset p hc h => exact .lineInReset rfl rfl h
  | holdReset => exact .holdReset (fun p => PerPort.get_const _ p) rfl rfl
  | releaseReset hc h => exact .releaseReset (fun p => by cases p <;> rfl) rfl
  | arm => apply keep <;> rw [armClaim_frame]
  | expire => apply keep <;> rw [takeHoldExpiry_frame]
  | consume => apply keep <;> rw [consumeClaim_frame]
  | admitOne => apply keep <;> rw [admitEntry_frame]
  | admitPair => apply keep <;> rw [admitEntry_frame, admitEntry_frame]
  | merge => apply keep <;> rw [makeVisible_frame]
  | markHead => unfold markHeadIssued; split <;> exact keep _ rfl rfl rfl rfl
  | drainStart => apply keep <;> rw [drainStart_frame]
  | loadComplete => unfold Machine.loadComplete; dsimp only; split <;> exact keep _ rfl rfl rfl rfl
  | prefetchIssue => unfold issuePrefetch; split <;> (try split) <;> exact keep _ rfl rfl rfl rfl
  | _ => exact keep _ rfl rfl rfl rfl

/-! ### The waiting list (R4) -/

theorem waitingLaw_congr {s t : State} (hp : t.ports = s.ports) (hw : t.waiting = s.waiting) (h : WaitingLaw s) :
    WaitingLaw t := by
  unfold WaitingLaw
  rw [hp, hw]
  exact h

/-- One port takes another state, and is on the list afterwards exactly if it is in SpaceWait. -/
theorem waitingLaw_setPort {s t : State} {p : Port} {x : PortState} (h : WaitingLaw s)
    (hp : t.ports = s.ports.set p x) (hnodup : t.waiting.Nodup) (hx : SpaceWaitsWrite x)
    (hmem : p ∈ t.waiting ↔ InSpaceWait x) (hothers : ∀ q, q ≠ p → (q ∈ t.waiting ↔ q ∈ s.waiting)) : WaitingLaw t := by
  obtain ⟨-, hin, hwrite⟩ := h
  refine ⟨hnodup, fun q => ?_, fun q => ?_⟩ <;> rw [hp, PerPort.get_set]
  · split
    next heq => rw [heq]; exact hmem
    next hne => rw [hothers q hne]; exact hin q
  · split
    · exact hx
    · exact hwrite q

theorem PortMove.keeps_waitingLaw {s t : State} (h : PortMove s t) (hs : WaitingLaw s) : WaitingLaw t := by
  obtain ⟨hnodup, hin, hwrite⟩ := id hs
  cases h with
  | same hp hw => exact waitingLaw_congr hp hw hs
  | change p x hold hnew hp hw =>
    refine waitingLaw_setPort hs hp (hw ▸ hnodup) hnew.not_spaceWait.2 ?_ (fun q _ => by rw [hw])
    rw [hw, hin p]
    exact iff_of_false hold.not_spaceWait.1 hnew.not_spaceWait.1
  | join p r v hold hu hp hw =>
    have hp' : p ∉ s.waiting := fun hmem => by
      have hwait := (hin p).mp hmem
      rw [hold] at hwait
      exact hwait
    refine waitingLaw_setPort hs hp ?_ hu ?_ (fun q hq => by simp [hw, hq])
    · rw [hw]
      exact hnodup.append (List.nodup_singleton p) (by simpa using hp')
    · exact iff_of_true (by simp [hw]) trivial
  | leave p rest r v x hfront hold hnew hp hw =>
    rw [hfront, List.nodup_cons] at hnodup
    refine waitingLaw_setPort hs hp (hw ▸ hnodup.2) hnew.not_spaceWait.2 ?_ (fun q hq => by simp [hw, hfront, hq])
    exact iff_of_false (hw ▸ hnodup.1) hnew.not_spaceWait.1
  | skip p rest hfront hidle =>
    have hwait := (hin p).mp (by simp [hfront])
    have huses := hwrite p
    cases hx : s.ports.get p with
    | spaceWait r v =>
      rw [hx] at huses
      exact absurd huses (by rw [SpaceWaitsWrite, hidle r v hx]; exact Bool.false_ne_true)
    | _ => rw [hx] at hwait; exact hwait.elim
  | reset p hp hw =>
    refine waitingLaw_setPort hs hp (hw ▸ hnodup.filter _) trivial ?_ (fun q hq => by simp [hw, hq])
    exact iff_of_false (by simp [hw]) id
  | release p hline hp hw =>
    split at hp
    next hreset =>
      refine waitingLaw_setPort hs hp (hw ▸ hnodup) trivial ?_ (fun q _ => by rw [hw])
      rw [hw, hin p, hreset]
      exact iff_of_false id id
    next => exact waitingLaw_congr hp hw hs
  | lineInReset hp hw => exact waitingLaw_congr hp hw hs
  | holdReset hp hw =>
    refine ⟨by simp [hw], fun p => ?_, fun p => ?_⟩ <;> rw [hp p]
    · exact iff_of_false (by simp [hw]) id
    · trivial
  | releaseReset hp hw =>
    have hsettled : ∀ p, ¬ InSpaceWait (t.ports.get p) ∧ SpaceWaitsWrite (t.ports.get p) := by
      intro p
      rw [hp p]
      split <;> exact ⟨id, trivial⟩
    exact ⟨by simp [hw], fun p => iff_of_false (by simp [hw]) (hsettled p).1, fun p => (hsettled p).2⟩

/-- Settles O54: by cases on what a move does to the ports and the list. -/
theorem stepKeepsTheWaitingList : Obligations.StepKeepsTheWaitingList := fun _ _ hs ht =>
  step_keeps (L := fun _ => True) (fun _ _ h => h) (fun _ _ h => h)
    (fun _ _ _ _ hm => hm.portMove.keeps_waitingLaw) ht trivial hs

/-! ### Ports in Reset (R119) -/

theorem PortMove.keeps_presetLaw {s t : State} (h : PortMove s t) (hs : PresetLaw s) : PresetLaw t := by
  have ofSame : SameLines s t → (∀ p, t.ports.get p = .reset ↔ s.ports.get p = .reset) → PresetLaw t := by
    intro hl hp hr p
    rw [hp p, hl.1]
    exact hs (hl.2 ▸ hr) p
  have ofSet : ∀ {p x}, SameLines s t → t.ports = s.ports.set p x → s.ports.get p ≠ .reset → x ≠ .reset → PresetLaw t := by
    intro p x hl hp hold hnew
    refine ofSame hl fun q => ?_
    rw [hp, PerPort.get_set]
    split
    next heq => rw [heq]; exact iff_of_false hnew hold
    next => rfl
  cases h with
  | same hp _ hl => exact ofSame hl fun p => by rw [hp]
  | change p x hold hnew hp _ hl => exact ofSet hl hp hold.ne_reset hnew.ne_reset
  | join p r v hold _ hp _ hl => exact ofSet hl hp (by simp [hold]) PortState.noConfusion
  | leave p rest r v x _ hold hnew hp _ hl => exact ofSet hl hp (by simp [hold]) hnew.ne_reset
  | skip p rest _ _ hp _ hl => exact ofSame hl fun p => by rw [hp]
  | reset p hp _ hl hr =>
    intro hr' q
    rw [hl, hp, PerPort.get_set, PerPort.get_set]
    split
    · simp
    · exact hs (hr ▸ hr') q
  | release p hline hp _ hl hr =>
    intro hr' q
    have hlaw := hs (hr ▸ hr')
    rw [hl, hp, PerPort.get_set, if_pos ((hlaw p).mpr hline), PerPort.get_set]
    split
    · simp
    · exact hlaw q
  | lineInReset _ _ hr => exact fun hr' => absurd hr' (by simp [hr])
  | holdReset _ _ hr => exact fun hr' => absurd hr' (by simp [hr])
  | releaseReset hp =>
    intro _ p
    rw [hp p]
    cases t.presetLines.get p <;> simp

/-- Settles O59: by cases on what a move does to the ports and the lines. -/
theorem stepKeepsThePresetLaw : Obligations.StepKeepsThePresetLaw := fun _ _ hs ht =>
  step_keeps (L := fun _ => True) (fun _ _ h => h) (fun _ _ h => h)
    (fun _ _ _ _ hm => hm.portMove.keeps_presetLaw) ht trivial hs

end Sys2Proof.Machine
end

section
/-! The claim operations under the law of R27: the law is kept, and what the lapse of every claim of a kind leaves. -/

namespace Sys2Proof.Machine

open Sys2Proof.Safety

/-! ### The law of claims and statuses -/

/-- The status is not Held. -/
def ClaimStatus.notHeld (x : ClaimStatus) : Prop := ∀ c, x ≠ .held c

theorem claimLaw_congr {s t : State} (htable : t.claimTable = s.claimTable) (hstatus : t.claimStatus = s.claimStatus)
    (h : ClaimLaw s) : ClaimLaw t := by
  unfold ClaimLaw
  rw [htable, hstatus]
  exact h

/-- A port without a claim may take any status that is not Held. -/
theorem claimLaw_setStatus {s : State} {p : Port} {x : ClaimStatus} (h : ClaimLaw s)
    (hold : (s.claimStatus.get p).notHeld) (hx : x.notHeld) : ClaimLaw (s.setStatus p x) := by
  obtain ⟨hentry, hheld⟩ := h
  refine ⟨fun c cl hc => ?_, fun q c hq => ?_⟩
  · have howner := hentry c cl hc
    have hne : cl.owner ≠ p := fun heq => hold c (heq ▸ howner)
    rw [State.setStatus_claimStatus, PerPort.get_set_other _ _ hne, howner]
  · rw [State.setStatus_claimStatus, PerPort.get_set] at hq
    split at hq
    · exact absurd hq (hx c)
    · exact hheld q c hq

/-- A claim ends: its entry is freed, and its owner's status is no longer Held. -/
theorem claimLaw_endClaim {s : State} {c : Ix4} {cl : Claim} {x : ClaimStatus} (h : ClaimLaw s)
    (hc : s.claimTable.get c = some cl) (hx : x.notHeld) : ClaimLaw ((s.setClaim c none).setStatus cl.owner x) := by
  obtain ⟨hentry, hheld⟩ := h
  refine ⟨fun c' cl' hc' => ?_, fun q c' hq => ?_⟩
  · rw [State.setStatus_claimTable, State.setClaim_claimTable, Quad.get_set] at hc'
    split at hc'
    · cases hc'
    next hne =>
      have howner := hentry c' cl' hc'
      have hother : cl'.owner ≠ cl.owner := fun heq =>
        hne (ClaimStatus.held.inj (howner.symm.trans (heq ▸ hentry c cl hc)))
      rw [State.setStatus_claimStatus, PerPort.get_set_other _ _ hother]
      exact howner
  · rw [State.setStatus_claimStatus, PerPort.get_set] at hq
    split at hq
    · exact absurd hq (hx c')
    next hne =>
      obtain ⟨cl', hc', howner⟩ := hheld q c' hq
      have hplace : c' ≠ c := by
        rintro rfl
        rw [hc] at hc'
        exact hne (Option.some.inj hc' ▸ howner.symm)
      exact ⟨cl', by rwa [State.setStatus_claimTable, State.setClaim_claimTable, Quad.get_set_other _ _ hplace], howner⟩

theorem lapsed_notHeld (reason : LapseReason) (line : Addr) : (ClaimStatus.lapsed reason line).notHeld :=
  fun _ => ClaimStatus.noConfusion

theorem none_notHeld : ClaimStatus.none.notHeld := fun _ => ClaimStatus.noConfusion

theorem lapseClaim_of_none {c : Ix4} {s : State} (reason : LapseReason) (hc : s.claimTable.get c = none) :
    lapseClaim reason c s = s := by
  simp only [lapseClaim, hc]

/-! ### The lapse of every claim of a kind -/

/-- The claim in an entry lapses if it is of a kind. -/
def lapseIf (kind : Claim → Bool) (reason : LapseReason) (c : Ix4) (s : State) : State :=
  if (s.claimTable.get c).any kind then lapseClaim reason c s else s

theorem breakClaim_eq (line : Addr) (c : Ix4) (s : State) :
    breakClaim line c s = lapseIf (fun cl => decide (cl.line = line)) .broken c s := by
  unfold breakClaim lapseIf
  cases s.claimTable.get c <;> simp

theorem lapseClaim_eq (reason : LapseReason) (c : Ix4) (s : State) :
    lapseClaim reason c s = lapseIf (fun _ => true) reason c s := by
  unfold lapseIf lapseClaim
  cases s.claimTable.get c <;> simp

theorem takeHoldExpiry_eq (c : Ix4) (stamp : BitVec 8) (s : State) :
    takeHoldExpiry c stamp s = lapseIf (fun cl => decide (cl.order = stamp)) .expired c s := by
  unfold takeHoldExpiry lapseIf
  cases s.claimTable.get c <;> simp

/-- Every claim of a kind lapses, one entry after another. -/
def lapseAll (kind : Claim → Bool) (reason : LapseReason) (places : List Ix4) (s : State) : State :=
  places.foldl (fun t c => lapseIf kind reason c t) s

theorem breakClaims_eq (line : Addr) (s : State) :
    breakClaims line s = lapseAll (fun cl => decide (cl.line = line)) .broken Ix4.all s := by
  simp only [breakClaims, breakClaim_eq]
  rfl

theorem dropClaims_eq (s : State) : dropClaims s = lapseAll (fun _ => true) .dropped Ix4.all s := by
  simp only [dropClaims, lapseClaim_eq]
  rfl

section
variable {kind : Claim → Bool} {reason : LapseReason}

/-- Nothing happens, or the claim in the entry, one of the kind, ends. -/
theorem lapseIf_cases (kind : Claim → Bool) (reason : LapseReason) (c : Ix4) (s : State) :
    ((s.claimTable.get c).any kind = false ∧ lapseIf kind reason c s = s)
      ∨ ∃ cl, s.claimTable.get c = some cl ∧ kind cl = true
        ∧ lapseIf kind reason c s = (s.setClaim c none).setStatus cl.owner (.lapsed reason cl.line) := by
  unfold lapseIf
  cases hc : s.claimTable.get c with
  | none => exact .inl ⟨rfl, rfl⟩
  | some cl =>
    cases hk : kind cl with
    | false => exact .inl (by simp [hk])
    | true => exact .inr ⟨cl, rfl, hk, by simp [hk, lapseClaim_of_some reason hc]⟩

theorem lapseIf_claimLaw (c : Ix4) {s : State} (h : ClaimLaw s) : ClaimLaw (lapseIf kind reason c s) := by
  rcases lapseIf_cases kind reason c s with ⟨-, he⟩ | ⟨cl, hc, -, he⟩ <;> rw [he]
  · exact h
  · exact claimLaw_endClaim h hc (lapsed_notHeld _ _)

theorem lapseIf_table (c c' : Ix4) (s : State) :
    (lapseIf kind reason c s).claimTable.get c' =
      if c' = c then (s.claimTable.get c').filter (fun cl => !kind cl) else s.claimTable.get c' := by
  rcases lapseIf_cases kind reason c s with ⟨hk, he⟩ | ⟨cl, hc, hk, he⟩ <;> rw [he]
  · split
    next heq =>
      subst heq
      cases hc : s.claimTable.get c' with
      | none => rfl
      | some cl =>
        rw [hc, Option.any_some] at hk
        simp [Option.filter, hk]
    · rfl
  · rw [State.setStatus_claimTable, State.setClaim_claimTable, Quad.get_set]
    split
    next heq => simp [heq, hc, hk, Option.filter]
    · rfl

/-- The status of a port that holds no claim of the kind stays. -/
theorem lapseIf_status_other (c : Ix4) {s : State} {q : Port} (h : ClaimLaw s)
    (hq : ∀ c' cl, s.claimStatus.get q = .held c' → s.claimTable.get c' = some cl → kind cl = false) :
    (lapseIf kind reason c s).claimStatus.get q = s.claimStatus.get q := by
  rcases lapseIf_cases kind reason c s with ⟨-, he⟩ | ⟨cl, hc, hk, he⟩ <;> rw [he]
  have hne : q ≠ cl.owner := by
    rintro rfl
    rw [hq c cl (h.1 c cl hc) hc] at hk
    cases hk
  rw [State.setStatus_claimStatus, PerPort.get_set_other _ _ hne]
  rfl

theorem lapseIf_status_held {s : State} {q : Port} {c : Ix4} {cl : Claim} (h : ClaimLaw s)
    (hq : s.claimStatus.get q = .held c) (hc : s.claimTable.get c = some cl) (hk : kind cl = true) :
    (lapseIf kind reason c s).claimStatus.get q = .lapsed reason cl.line := by
  obtain ⟨cl', hc', howner⟩ := h.2 q c hq
  rw [hc] at hc'
  cases hc'
  rcases lapseIf_cases kind reason c s with ⟨hk', -⟩ | ⟨cl', hc', -, he⟩
  · simp [hc, hk] at hk'
  · rw [hc] at hc'
    cases hc'
    rw [he, State.setStatus_claimStatus, howner, PerPort.get_set_same]

theorem lapseAll_claimLaw (places : List Ix4) {s : State} (h : ClaimLaw s) : ClaimLaw (lapseAll kind reason places s) := by
  induction places generalizing s with
  | nil => exact h
  | cons c places ih => exact ih (lapseIf_claimLaw c h)

theorem lapseAll_table (places : List Ix4) (c : Ix4) (s : State) :
    (lapseAll kind reason places s).claimTable.get c =
      if c ∈ places then (s.claimTable.get c).filter (fun cl => !kind cl) else s.claimTable.get c := by
  induction places generalizing s with
  | nil => rfl
  | cons c0 places ih =>
    rw [lapseAll, List.foldl_cons, ← lapseAll, ih, lapseIf_table]
    by_cases hc : c = c0 <;> by_cases hp : c ∈ places <;> simp [hc, hp, Option.filter_filter]

theorem lapseAll_status_other (places : List Ix4) {s : State} {q : Port} (h : ClaimLaw s)
    (hq : ∀ c cl, s.claimStatus.get q = .held c → s.claimTable.get c = some cl → kind cl = false) :
    (lapseAll kind reason places s).claimStatus.get q = s.claimStatus.get q := by
  induction places generalizing s with
  | nil => rfl
  | cons c0 places ih =>
    have hsame := lapseIf_status_other (reason := reason) c0 h hq
    rw [lapseAll, List.foldl_cons, ← lapseAll, ih (lapseIf_claimLaw c0 h), hsame]
    intro c cl hs hc
    rw [hsame] at hs
    rw [lapseIf_table] at hc
    refine hq c cl hs ?_
    split at hc
    · exact Option.eq_some_of_filter_eq_some hc
    · exact hc

theorem lapseAll_status_held {places : List Ix4} {s : State} {q : Port} {c : Ix4} {cl : Claim} (h : ClaimLaw s)
    (hp : c ∈ places) (hq : s.claimStatus.get q = .held c) (hc : s.claimTable.get c = some cl) (hk : kind cl = true) :
    (lapseAll kind reason places s).claimStatus.get q = .lapsed reason cl.line := by
  induction places generalizing s with
  | nil => cases hp
  | cons c0 places ih =>
    rw [lapseAll, List.foldl_cons, ← lapseAll]
    by_cases heq : c = c0
    · subst heq
      have hnow := lapseIf_status_held (reason := reason) h hq hc hk
      rw [lapseAll_status_other places (lapseIf_claimLaw c h), hnow]
      intro c' cl' hs
      rw [hnow] at hs
      cases hs
    · refine ih (lapseIf_claimLaw c0 h) ((List.mem_cons.mp hp).resolve_left heq) ?_ ?_
      · rcases lapseIf_cases kind reason c0 s with ⟨-, he⟩ | ⟨cl0, hc0, -, he⟩ <;> rw [he]
        · exact hq
        · have hne : q ≠ cl0.owner := by
            rintro rfl
            exact heq (ClaimStatus.held.inj (hq.symm.trans (h.1 c0 cl0 hc0)))
          rw [State.setStatus_claimStatus, PerPort.get_set_other _ _ hne]
          exact hq
      · rw [lapseIf_table, if_neg heq]
        exact hc

end

/-! ### Arming, consumption and admission keep the law -/

theorem lowestFreeClaim_spec {t : Quad (Option Claim)} {c : Ix4} (h : lowestFreeClaim t = some c) : t.get c = none := by
  simpa using List.find?_some h

theorem armClaim_claimLaw (p : Port) (line : Addr) {s : State} (h : ClaimLaw s) : ClaimLaw (armClaim p line s) := by
  obtain ⟨hentry, hheld⟩ := id h
  unfold armClaim
  split
  next c hp =>
    refine ⟨fun c' cl hc' => ?_, fun q c' hq => ?_⟩
    · simp only [State.setClaim_claimTable, State.setClaim_claimStatus, Quad.get_set] at hc' ⊢
      split at hc'
      next heq => cases hc'; rw [heq]; exact hp
      · exact hentry c' cl hc'
    · simp only [State.setClaim_claimTable, State.setClaim_claimStatus, Quad.get_set] at hq ⊢
      obtain ⟨cl, hc', howner⟩ := hheld q c' hq
      split
      next heq =>
        subst heq
        obtain ⟨cl', hcl', hp'⟩ := hheld p c' hp
        rw [hc'] at hcl'
        cases hcl'
        exact ⟨_, rfl, hp'.symm.trans howner⟩
      · exact ⟨cl, hc', howner⟩
  next hp =>
    have hold : (s.claimStatus.get p).notHeld := fun c hc => hp c hc
    split
    next c hfree =>
      have hempty := lowestFreeClaim_spec hfree
      refine ⟨fun c' cl hc' => ?_, fun q c' hq => ?_⟩
      · simp only [State.setStatus_claimTable, State.setClaim_claimTable, State.setStatus_claimStatus,
          State.setClaim_claimStatus, Quad.get_set] at hc' ⊢
        split at hc'
        next heq => cases hc'; rw [heq]; exact PerPort.get_set_same ..
        · have howner := hentry c' cl hc'
          have hne : cl.owner ≠ p := fun heq => hold c' (heq ▸ howner)
          rw [PerPort.get_set_other _ _ hne]
          exact howner
      · simp only [State.setStatus_claimTable, State.setClaim_claimTable, State.setStatus_claimStatus,
          State.setClaim_claimStatus, Quad.get_set, PerPort.get_set] at hq ⊢
        split at hq
        next heq => cases hq; exact ⟨_, if_pos rfl, heq.symm⟩
        · obtain ⟨cl, hc', howner⟩ := hheld q c' hq
          have hne : c' ≠ c := by
            rintro rfl
            rw [hempty] at hc'
            cases hc'
          exact ⟨cl, (if_neg hne).trans hc', howner⟩
    · exact claimLaw_setStatus h hold (lapsed_notHeld _ _)

theorem giveUpClaim_claimLaw (p : Port) {s : State} (h : ClaimLaw s) : ClaimLaw (giveUpClaim p s) := by
  unfold giveUpClaim
  split
  next c hp =>
    obtain ⟨cl, hc, rfl⟩ := h.2 p c hp
    exact claimLaw_endClaim h hc none_notHeld
  next hp => exact claimLaw_setStatus h (fun c hc => hp c hc) none_notHeld

theorem consumeClaim_claimLaw (p : Port) {s : State} (h : ClaimLaw s) : ClaimLaw (consumeClaim p s) :=
  claimLaw_congr rfl rfl (giveUpClaim_claimLaw p h)

theorem clearClaim_claimLaw (p : Port) {s : State} (h : ClaimLaw s) : ClaimLaw (clearClaim p s) :=
  claimLaw_congr rfl rfl (giveUpClaim_claimLaw p h)

theorem makeVisible_claimLaw (line : Addr) {s : State} (h : ClaimLaw s) : ClaimLaw (makeVisible line s) := by
  unfold makeVisible
  rw [breakClaims_eq]
  exact lapseAll_claimLaw Ix4.all (claimLaw_congr rfl rfl h)

theorem admitEntry_claimLaw (p : Port) (target : Addr) (body : EntryBody) {s : State} (h : ClaimLaw s) :
    ClaimLaw (admitEntry p target body s) :=
  makeVisible_claimLaw _ (claimLaw_congr rfl rfl h)

theorem countBoundary_claimLaw {s : State} (h : ClaimLaw s) : ClaimLaw (countBoundary s) := by
  obtain ⟨hentry, hheld⟩ := h
  refine ⟨fun c cl hc => ?_, fun q c hq => ?_⟩
  · simp only [countBoundary, Quad.get_map, Option.map_eq_some_iff] at hc
    obtain ⟨cl', hc', rfl⟩ := hc
    exact hentry c cl' hc'
  · obtain ⟨cl, hc, howner⟩ := hheld q c hq
    exact ⟨cl.tick, by simp [countBoundary, hc], howner⟩

theorem claimLaw_cleared {s : State} (htable : ∀ c, s.claimTable.get c = none)
    (hstatus : ∀ p, s.claimStatus.get p = .none) : ClaimLaw s :=
  ⟨fun c _ hc => (Option.some_ne_none _ (hc.symm.trans (htable c))).elim,
    fun p _ hp => (ClaimStatus.noConfusion (hp.symm.trans (hstatus p)))⟩

/-! ### The law along moves -/

theorem Move.keeps_claimLaw {s0 : Event} {s t : State} (h : Move s0 s t) (hs : ClaimLaw s) : ClaimLaw t := by
  cases h with
  | arm p line => exact armClaim_claimLaw p line hs
  | expire c stamp => rw [takeHoldExpiry_eq]; exact lapseIf_claimLaw c hs
  | consume p => exact consumeClaim_claimLaw p hs
  | admitOne p target body => exact admitEntry_claimLaw p target body hs
  | admitPair p line target m d settled c =>
    exact admitEntry_claimLaw p target _ (admitEntry_claimLaw p line _ hs)
  | merge p line => exact makeVisible_claimLaw line (claimLaw_congr rfl rfl hs)
  | reset p => exact clearClaim_claimLaw p (claimLaw_congr rfl rfl hs)
  | drainStart =>
    unfold Machine.drainStart
    rw [dropClaims_eq]
    exact lapseAll_claimLaw Ix4.all (claimLaw_congr rfl rfl hs)
  | tick => exact countBoundary_claimLaw hs
  | holdReset => exact claimLaw_cleared (Quad.get_const none) (PerPort.get_const ClaimStatus.none)
  | releaseReset => exact claimLaw_cleared (Quad.get_const none) (PerPort.get_const ClaimStatus.none)
  | markHead => unfold markHeadIssued; split <;> exact claimLaw_congr rfl rfl hs
  | release => unfold releasePreset; split <;> exact claimLaw_congr rfl rfl hs
  | loadComplete => unfold Machine.loadComplete; dsimp only; split <;> exact claimLaw_congr rfl rfl hs
  | prefetchIssue => unfold issuePrefetch; split <;> (try split) <;> exact claimLaw_congr rfl rfl hs
  | _ => exact claimLaw_congr rfl rfl hs

/-! ### No claim outside Serving (R44) -/

theorem dropClaims_table (s : State) (c : Ix4) : (dropClaims s).claimTable.get c = none := by
  rw [dropClaims_eq, lapseAll_table]
  cases s.claimTable.get c <;> simp

theorem lapseIf_table_none {kind : Claim → Bool} {reason : LapseReason} (c c' : Ix4) {s : State}
    (h : s.claimTable.get c' = none) : (lapseIf kind reason c s).claimTable.get c' = none := by
  rw [lapseIf_table, h]
  exact ite_self _

theorem makeVisible_table_none (line : Addr) (c : Ix4) {s : State} (h : s.claimTable.get c = none) :
    (makeVisible line s).claimTable.get c = none := by
  unfold makeVisible
  rw [breakClaims_eq, lapseAll_table]
  simp [h]

theorem admitEntry_table_none (p : Port) (target : Addr) (body : EntryBody) (c : Ix4) {s : State}
    (h : s.claimTable.get c = none) : (admitEntry p target body s).claimTable.get c = none :=
  makeVisible_table_none _ c h

theorem giveUpClaim_table_none (p : Port) (c : Ix4) {s : State} (h : s.claimTable.get c = none) :
    (giveUpClaim p s).claimTable.get c = none := by
  unfold giveUpClaim
  split
  · rw [State.setStatus_claimTable, State.setClaim_claimTable, Quad.get_set, h]
    exact ite_self _
  · exact h

/-- Outside Serving no move arms a claim, and what ends Serving drops the claims or clears the table. -/
theorem Move.keeps_noClaimOutsideServing {s0 : Event} {s t : State} (hl : LoaderLaw s0.start) (h : Move s0 s t)
    (hs : NoClaimOutsideServing s) : NoClaimOutsideServing t := by
  have keep : ∀ u : State, u.mode = s.mode →
      (∀ c, s.claimTable.get c = none → u.claimTable.get c = none) → NoClaimOutsideServing u :=
    fun u hmode htable hm c => htable c (hs (hmode ▸ hm) c)
  cases h with
  | arm p line hserving =>
    intro hm
    rw [armClaim_frame] at hm
    exact absurd hserving hm
  | expire c stamp =>
    rw [takeHoldExpiry_eq]
    exact keep _ (by rw [← takeHoldExpiry_eq, takeHoldExpiry_frame]) fun c' => lapseIf_table_none c c'
  | consume p => exact keep _ (by rw [consumeClaim_frame]) fun c => giveUpClaim_table_none p c
  | admitOne p target body =>
    exact keep _ (by rw [admitEntry_frame]) fun c => admitEntry_table_none p target body c
  | admitPair p line target m d settled c =>
    exact keep _ (by rw [admitEntry_frame, admitEntry_frame]) fun c' hc =>
      admitEntry_table_none p target _ c' (admitEntry_table_none p line _ c' hc)
  | merge p line => exact keep _ (by rw [makeVisible_frame]) fun c hc => makeVisible_table_none line c hc
  | reset p =>
    exact keep _ (by rw [resetPort_frame]) fun c hc => giveUpClaim_table_none p c hc
  | drainStart =>
    intro _ c
    unfold Machine.drainStart
    exact dropClaims_table _ c
  | startLoading hdraining => exact fun _ => hs (by simp [hdraining])
  | loadComplete result hload =>
    have hnone := hs (by simp [(hload hl).2.1])
    unfold Machine.loadComplete
    dsimp only
    split <;> exact fun _ => hnone
  | tick => exact keep _ rfl fun c hc => by simp [countBoundary, hc]
  | holdReset => exact fun _ => Quad.get_const none
  | releaseReset => exact fun _ => Quad.get_const none
  | markHead => unfold markHeadIssued; split <;> exact keep _ rfl fun _ hc => hc
  | release => unfold releasePreset; split <;> exact keep _ rfl fun _ hc => hc
  | prefetchIssue => unfold issuePrefetch; split <;> (try split) <;> exact keep _ rfl fun _ hc => hc
  | _ => exact keep _ rfl fun _ hc => hc

/-- Settles O55: by cases on the moves that touch the claim state or the mode. -/
theorem stepKeepsTheClaimLaws : Obligations.StepKeepsTheClaimLaws := by
  intro s t ht
  exact
    ⟨step_keeps (L := fun _ => True) (fun _ _ h => h) (fun _ _ h => h) (fun _ _ _ _ hm => hm.keeps_claimLaw) ht trivial,
      step_keeps (L := LoaderLaw) (fun _ _ h => h) (fun _ _ h => h)
        (fun _ _ _ hl hm => hm.keeps_noClaimOutsideServing hl) ht⟩

end Sys2Proof.Machine
end

section
/-! The operations in flight: what a move can do to the slots, and the laws about live tags and the loader's reads
(R86, R98, R169). -/

namespace Sys2Proof.Machine

open Sys2Proof.Safety

/-! ### Operations that stay in flight -/

/-- An operation after a move is the one its slot held before: same request, same generation, still not stale, and of
the same class. Only a port's reset renames an owner, a port's read to a discarded operation (R65). -/
structure SameOp (sl sl' : Slot) (o o' : Occupant) : Prop where
  req : o'.req = o.req
  ofQueue : o'.owner.ofQueue = o.owner.ofQueue
  countsAsRead : o'.owner.countsAsRead = o.owner.countsAsRead
  loader : o'.owner = .loader ↔ o.owner = .loader
  live : sl.stale.get o.gen = false → sl'.stale.get o'.gen = false

/-- Every operation in flight was in flight before. -/
def KeepsOps (s t : State) : Prop :=
  ∀ i o', (t.slots.get i).occupant = some o' →
    ∃ o, (s.slots.get i).occupant = some o ∧ SameOp (s.slots.get i) (t.slots.get i) o o'

theorem SameOp.refl (sl : Slot) (o : Occupant) : SameOp sl sl o o := ⟨rfl, rfl, rfl, .rfl, id⟩

theorem keepsOps_of_slots {s t : State} (h : t.slots = s.slots) : KeepsOps s t := by
  intro i o ho
  rw [h] at ho ⊢
  exact ⟨o, ho, SameOp.refl _ o⟩

theorem keepsOps_of_empty {s t : State} (h : ∀ i, (t.slots.get i).occupant = none) : KeepsOps s t := by
  intro i o ho
  rw [h i] at ho
  cases ho

/-- One slot is changed, and holds no operation its old self did not hold. -/
theorem keepsOps_setSlot (s : State) (i : Ix4) (sl : Slot)
    (h : ∀ o, sl.occupant = some o → (s.slots.get i).occupant = some o ∧ SameOp (s.slots.get i) sl o o) :
    KeepsOps s (s.setSlot i sl) := by
  intro j o ho
  rw [State.setSlot_slots, Quad.get_set] at ho ⊢
  by_cases hj : j = i
  · rw [if_pos hj] at ho ⊢
    rw [hj]
    exact ⟨o, h o ho⟩
  · rw [if_neg hj] at ho ⊢
    exact ⟨o, ho, SameOp.refl _ o⟩

/-- Every slot's occupant is mapped, its class, request and generation kept. -/
theorem keepsOps_map {s t : State} (f : Occupant → Occupant)
    (hslots : ∀ i, t.slots.get i = { s.slots.get i with occupant := (s.slots.get i).occupant.map f })
    (hf : ∀ sl o, SameOp sl { sl with occupant := sl.occupant.map f } o (f o)) : KeepsOps s t := by
  intro i o' ho'
  rw [hslots i, Option.map_eq_some_iff] at ho'
  obtain ⟨o, ho, rfl⟩ := ho'
  rw [hslots i]
  exact ⟨o, ho, hf _ o⟩

/-- What a port's reset makes of an operation (R65, R100). -/
def Occupant.discardFor (p : Port) (o : Occupant) : Occupant :=
  match o.owner with
  | .fill q _ => if q = p then { o with owner := .discarded } else o
  | .pass q => if q = p then { o with owner := .discarded } else o
  | _ => o

theorem discardFor_occupant (p : Port) (sl : Slot) :
    sl.discardFor p = { sl with occupant := sl.occupant.map (Occupant.discardFor p) } := rfl

theorem sameOp_discardFor (p : Port) (sl : Slot) (o : Occupant) :
    SameOp sl { sl with occupant := sl.occupant.map (Occupant.discardFor p) } o (o.discardFor p) := by
  obtain ⟨owner, req, gen, timer⟩ := o
  cases owner with
  | fill q e =>
    by_cases hq : q = p <;> simp only [Occupant.discardFor, hq, if_true, if_false] <;>
      exact ⟨rfl, rfl, rfl, by simp, id⟩
  | pass q =>
    by_cases hq : q = p <;> simp only [Occupant.discardFor, hq, if_true, if_false] <;>
      exact ⟨rfl, rfl, rfl, by simp, id⟩
  | _ => exact ⟨rfl, rfl, rfl, .rfl, id⟩

theorem keepsOps_resetPort (p : Port) (s : State) : KeepsOps s (resetPort p s) :=
  keepsOps_map (Occupant.discardFor p) (fun i => by rw [resetPort_frame, Quad.get_map, discardFor_occupant])
    (sameOp_discardFor p)

theorem keepsOps_countBoundary (s : State) : KeepsOps s (countBoundary s) :=
  keepsOps_map (fun o => { o with timer := o.timer - 1 }) (fun i => Quad.get_map Slot.tick s.slots i)
    fun _ _ => ⟨rfl, rfl, rfl, .rfl, id⟩

theorem keepsOps_freeSlot (i : Ix4) (s : State) : KeepsOps s (freeSlot i s) :=
  keepsOps_setSlot s i _ fun _ ho => (Option.some_ne_none _ ho.symm).elim

theorem keepsOps_abandonSlot (i g : Ix4) (s : State) : KeepsOps s (abandonSlot i g s) :=
  keepsOps_setSlot s i _ fun _ ho => (Option.some_ne_none _ ho.symm).elim

theorem keepsOps_discardCompletion (t : Tag) (s : State) : KeepsOps s (discardCompletion t s) := by
  refine keepsOps_setSlot s t.slot _ fun o ho => ⟨ho, rfl, rfl, rfl, .rfl, fun hlive => ?_⟩
  dsimp only
  rw [Quad.get_set]
  split
  · rfl
  · exact hlive

/-! ### The issue of an operation -/

/-- A slot that does not hold every generation stale chooses one that is not (R86). -/
theorem chooseGen_notStale {sl : Slot} (h : sl.allStale = false) : sl.stale.get sl.chooseGen = false := by
  by_contra hstale
  rw [Bool.not_eq_false] at hstale
  have hall : ∀ g, sl.stale.get g = true := by
    unfold Slot.chooseGen at hstale
    split at hstale
    next h0 => simp [hstale] at h0
    next h0 =>
      split at hstale
      next h1 => simp [hstale] at h1
      next h1 =>
        split at hstale
        next h2 => simp [hstale] at h2
        next h2 =>
          simp only [Bool.not_eq_true', Bool.not_eq_false] at h0 h1 h2
          intro g
          cases hn : sl.nextGen <;> rw [hn] at h0 h1 h2 hstale <;> cases g <;> assumption
  simp [Slot.allStale, hall] at h

/-- The state after the issue of an operation in a slot that was vacant and had a generation to give. -/
structure Issued (s t : State) (i : Ix4) (o : Occupant) : Prop where
  vacant : (s.slots.get i).occupant = none
  here : (t.slots.get i).occupant = some o
  live : (t.slots.get i).stale.get o.gen = false
  others : ∀ j, j ≠ i → t.slots.get j = s.slots.get j

theorem issued_of_slots {s t : State} {i : Ix4} {owner : Owner} {req : MemRequest} {timeout : Nat}
    (ht : t.slots = s.slots.set i ((s.slots.get i).issue owner req timeout))
    (hvacant : (s.slots.get i).occupant = none) (hfresh : (s.slots.get i).allStale = false) :
    Issued s t i ⟨owner, req, (s.slots.get i).chooseGen, timeout⟩ where
  vacant := hvacant
  here := by rw [ht, Quad.get_set_same]; rfl
  live := by rw [ht, Quad.get_set_same]; exact chooseGen_notStale hfresh
  others j hj := by rw [ht, Quad.get_set_other _ _ hj]

/-- An operation after an issue is the issued one, or was in flight before. -/
theorem Issued.op {s t : State} {i j : Ix4} {o o' : Occupant} (h : Issued s t i o)
    (ho' : (t.slots.get j).occupant = some o') : (j = i ∧ o' = o) ∨ (j ≠ i ∧ (s.slots.get j).occupant = some o') := by
  by_cases hj : j = i
  · rw [hj, h.here] at ho'
    exact .inl ⟨hj, (Option.some.inj ho').symm⟩
  · rw [h.others j hj] at ho'
    exact .inr ⟨hj, ho'⟩

/-! ### Live tags (R86) -/

theorem KeepsOps.liveTags {s t : State} (h : KeepsOps s t) (hs : LiveTagsNotStale s) : LiveTagsNotStale t := by
  intro i o' ho'
  obtain ⟨o, ho, hsame⟩ := h i o' ho'
  exact hsame.live (hs i o ho)

theorem Issued.liveTags {s t : State} {i : Ix4} {o : Occupant} (h : Issued s t i o) (hs : LiveTagsNotStale s) :
    LiveTagsNotStale t := by
  intro j o' ho'
  rcases h.op ho' with ⟨rfl, rfl⟩ | ⟨hj, ho⟩
  · exact h.live
  · rw [h.others j hj]
    exact hs j o' ho

/-- What a prefetch's issue does to the state (R94, R96). -/
theorem issuePrefetch_of_candidate {p : Port} {s : State} (i : Ix4) (h : prefetchCandidate p s = true) :
    ∃ e l f, (s.lineSets.get p).waitingPrefetch = some e ∧ (s.lineSets.get p).entries.get e = .filling l f
      ∧ f.cls = .prefetch ∧ f.issued = false
      ∧ issuePrefetch i p s =
        issueIn i (.fill p e) (.read .b32 l)
          { s.setLineSet p ((s.lineSets.get p).setEntry e (.filling l { f with issued := true })) with
            prefetchPtr := p } := by
  unfold prefetchCandidate at h
  obtain ⟨e, he⟩ := Option.isSome_iff_exists.mp h
  have hwaits := List.find?_some he
  cases hentry : (s.lineSets.get p).entries.get e with
  | filling l f =>
    rw [hentry] at hwaits
    simp only [LineEntry.waitingPrefetch?] at hwaits
    split at hwaits
    next hf => exact ⟨e, l, f, he, hentry, hf.1, hf.2, by simp [issuePrefetch, he, hentry, LineEntry.line?, LineEntry.issueFill]⟩
    · cases hwaits
  | _ => simp [hentry, LineEntry.waitingPrefetch?] at hwaits

/-- The three moves that issue an operation, and what the others leave in flight. -/
theorem Move.ops {s0 : Event} {s t : State} (h : Move s0 s t) (hlive : LiveTagsNotStale s0.start) :
    KeepsOps s t ∨ ∃ i o, Issued s t i o := by
  cases h with
  | issue i owner req timeout hi hfresh => exact .inr ⟨i, _, issued_of_slots rfl hi (hfresh hlive)⟩
  | prefetchIssue i p hi hp =>
    obtain ⟨e, l, f, -, -, -, -, heq⟩ := issuePrefetch_of_candidate i hp
    rw [heq]
    exact .inr ⟨i, _, issued_of_slots rfl (isFree_spec hi).1 (isFree_spec hi).2⟩
  | loaderIssue i hi => exact .inr ⟨i, _, issued_of_slots rfl (isFree_spec hi).1 (isFree_spec hi).2⟩
  | free i => exact .inl (keepsOps_freeSlot i s)
  | abandon i g => exact .inl (keepsOps_abandonSlot i g s)
  | discard t => exact .inl (keepsOps_discardCompletion t s)
  | tick => exact .inl (keepsOps_countBoundary s)
  | reset p => exact .inl (keepsOps_resetPort p s)
  | holdReset => exact .inl (keepsOps_of_empty fun i => by cases i <;> rfl)
  | releaseReset => exact .inl (keepsOps_of_empty fun i => by cases i <;> rfl)
  | arm => exact .inl (keepsOps_of_slots (by rw [armClaim_frame]))
  | expire => exact .inl (keepsOps_of_slots (by rw [takeHoldExpiry_frame]))
  | consume => exact .inl (keepsOps_of_slots (by rw [consumeClaim_frame]))
  | admitOne => exact .inl (keepsOps_of_slots (by rw [admitEntry_frame]))
  | admitPair => exact .inl (keepsOps_of_slots (by rw [admitEntry_frame, admitEntry_frame]))
  | merge => exact .inl (keepsOps_of_slots (by rw [makeVisible_frame]))
  | drainStart => exact .inl (keepsOps_of_slots (by rw [drainStart_frame]))
  | markHead => exact .inl (keepsOps_of_slots (by unfold markHeadIssued; split <;> rfl))
  | release => exact .inl (keepsOps_of_slots (by unfold releasePreset; split <;> rfl))
  | loadComplete => exact .inl (keepsOps_of_slots (by unfold Machine.loadComplete; dsimp only; split <;> rfl))
  | _ => exact .inl (keepsOps_of_slots rfl)

theorem Move.keeps_liveTags {s0 : Event} {s t : State} (hlive : LiveTagsNotStale s0.start) (h : Move s0 s t)
    (hs : LiveTagsNotStale s) : LiveTagsNotStale t := by
  rcases h.ops hlive with hops | ⟨i, o, hissued⟩
  · exact hops.liveTags hs
  · exact hissued.liveTags hs

/-! ### The loader's reads (R98, R169) -/

theorem KeepsOps.noLoaderRead {s t : State} (h : KeepsOps s t) (hs : NoLoaderRead s) : NoLoaderRead t := by
  intro i o' ho'
  obtain ⟨o, ho, hsame⟩ := h i o' ho'
  exact fun hl => hs i o ho (hsame.loader.mp hl)

theorem loaderLaw_of_noRead {s : State} (hmode : s.mode ≠ .loading → s.loader.offered = false) (h : NoLoaderRead s) :
    LoaderLaw s :=
  ⟨fun hm => ⟨hmode hm, h⟩, fun i _ o _ ho _ hl _ => absurd hl (h i o ho), fun _ => h⟩

/-- A move that leaves the loader's offer and the mode, Loading or not, and issues no loader read. -/
theorem loaderLaw_of_keepsOps {s t : State} (h : KeepsOps s t) (hmode : t.mode = .loading ↔ s.mode = .loading)
    (hoffered : t.loader.offered = s.loader.offered) (hs : LoaderLaw s) : LoaderLaw t := by
  obtain ⟨hout, hone, hoffer⟩ := hs
  refine ⟨fun hm => ?_, fun i j o o' ho ho' hl hl' => ?_, fun hoff => ?_⟩
  · obtain ⟨hoff, hread⟩ := hout (mt hmode.mpr hm)
    exact ⟨hoffered.trans hoff, h.noLoaderRead hread⟩
  · obtain ⟨o1, ho1, h1⟩ := h i o ho
    obtain ⟨o2, ho2, h2⟩ := h j o' ho'
    exact hone i j o1 o2 ho1 ho2 (h1.loader.mp hl) (h2.loader.mp hl')
  · exact h.noLoaderRead (hoffer (hoffered ▸ hoff))

/-- The issue of an operation that is no loader read. -/
theorem loaderLaw_of_issued {s t : State} {i : Ix4} {sl : Slot} {o : Occupant} (h : t.slots = s.slots.set i sl)
    (ho : sl.occupant = some o) (hl : o.owner ≠ .loader) (hmode : t.mode = s.mode)
    (hoffered : t.loader.offered = s.loader.offered) (hs : LoaderLaw s) : LoaderLaw t := by
  have hbefore : ∀ {j o'}, (t.slots.get j).occupant = some o' → o'.owner = .loader →
      (s.slots.get j).occupant = some o' := by
    intro j o' ho' hl'
    by_cases hj : j = i
    · rw [hj, h, Quad.get_set_same, ho] at ho'
      exact absurd (Option.some.inj ho' ▸ hl') hl
    · rwa [h, Quad.get_set_other _ _ hj] at ho'
  obtain ⟨hout, hone, hoffer⟩ := hs
  refine ⟨fun hm => ?_, fun j k o1 o2 h1 h2 hl1 hl2 => ?_, fun hoff => ?_⟩
  · obtain ⟨hoff, hread⟩ := hout (hmode ▸ hm)
    exact ⟨hoffered.trans hoff, fun j o' ho' hl' => hread j o' (hbefore ho' hl') hl'⟩
  · exact hone j k o1 o2 (hbefore h1 hl1) (hbefore h2 hl2) hl1 hl2
  · exact fun j o' ho' hl' => hoffer (hoffered ▸ hoff) j o' (hbefore ho' hl') hl'

/-- The loader's read is issued: it was offered, so no other was in flight, and it is offered no longer. -/
theorem loaderLaw_issueLoader {s : State} (i : Ix4) (hm : s.mode = .loading) (ho : s.loader.offered = true)
    (hs : LoaderLaw s) : LoaderLaw (issueLoader i s) := by
  have hnone := hs.2.2 ho
  have hplace : ∀ {j o}, ((issueLoader i s).slots.get j).occupant = some o → o.owner = .loader → j = i := by
    intro j o hj hl
    by_contra hne
    have hslot : (issueLoader i s).slots.get j = s.slots.get j := Quad.get_set_other _ _ hne
    rw [hslot] at hj
    exact hnone j o hj hl
  exact ⟨fun hne => absurd hm hne, fun j k o o' hj hk hl hl' => (hplace hj hl).trans (hplace hk hl').symm,
    fun hoff => absurd hoff Bool.false_ne_true⟩

theorem Move.keeps_loaderLaw {s0 : Event} {s t : State} (h0 : LoaderLaw s0.start) (h : Move s0 s t)
    (hs : LoaderLaw s) : LoaderLaw t := by
  have same : ∀ u : State, u.slots = s.slots → u.mode = s.mode → u.loader = s.loader → LoaderLaw u :=
    fun u hslots hmode hloader =>
      loaderLaw_of_keepsOps (keepsOps_of_slots hslots) (by rw [hmode]) (by rw [hloader]) hs
  cases h with
  | issue i owner req timeout _ _ _ _ hl =>
    exact loaderLaw_of_issued (s := s) (State.setSlot_slots s i _) rfl hl rfl rfl hs
  | prefetchIssue i p hi hp =>
    obtain ⟨e, l, f, -, -, -, -, heq⟩ := issuePrefetch_of_candidate i hp
    rw [heq]
    exact loaderLaw_of_issued (s := s) (i := i) rfl rfl (by simp) rfl rfl hs
  | loaderIssue i _ hm ho => exact loaderLaw_issueLoader i hm ho hs
  | loaderNext l hnext =>
    obtain ⟨hm, hread⟩ := hnext h0
    exact loaderLaw_of_noRead (fun hne => absurd hm hne) hread
  | startLoading _ hread => exact loaderLaw_of_noRead (fun hne => absurd rfl hne) (hread h0)
  | loadComplete result hload =>
    obtain ⟨-, hm, hread⟩ := hload h0
    unfold Machine.loadComplete
    dsimp only
    split
    · exact loaderLaw_of_noRead (fun hne => absurd rfl hne) hread
    · exact loaderLaw_of_noRead (fun _ => rfl) hread
  | drainStart _ _ hserving =>
    rw [drainStart_frame]
    exact loaderLaw_of_keepsOps (s := s) (keepsOps_of_slots rfl) (by simp [hserving]) rfl hs
  | free i => exact loaderLaw_of_keepsOps (keepsOps_freeSlot i s) .rfl rfl hs
  | abandon i g => exact loaderLaw_of_keepsOps (keepsOps_abandonSlot i g s) .rfl rfl hs
  | discard t => exact loaderLaw_of_keepsOps (keepsOps_discardCompletion t s) .rfl rfl hs
  | tick => exact loaderLaw_of_keepsOps (keepsOps_countBoundary s) .rfl rfl hs
  | reset p =>
    refine loaderLaw_of_keepsOps (keepsOps_resetPort p s) ?_ ?_ hs <;> rw [resetPort_frame]
  | holdReset => exact loaderLaw_of_noRead (fun _ => rfl) fun i _ ho => by cases i <;> cases ho
  | releaseReset => exact loaderLaw_of_noRead (fun hne => absurd rfl hne) fun i _ ho => by cases i <;> cases ho
  | arm => apply same <;> rw [armClaim_frame]
  | expire => apply same <;> rw [takeHoldExpiry_frame]
  | consume => apply same <;> rw [consumeClaim_frame]
  | admitOne => apply same <;> rw [admitEntry_frame]
  | admitPair => apply same <;> rw [admitEntry_frame, admitEntry_frame]
  | merge => apply same <;> rw [makeVisible_frame]
  | markHead => unfold markHeadIssued; split <;> exact same _ rfl rfl rfl
  | release => unfold releasePreset; split <;> exact same _ rfl rfl rfl
  | _ => exact same _ rfl rfl rfl

/-- Settles O56: the moves that issue choose a live generation, and the loader's read is offered or in flight, never
twice. -/
theorem stepKeepsTheSlotLaws : Obligations.StepKeepsTheSlotLaws := by
  intro s t ht
  exact
    ⟨fun hs => step_keeps (L := LiveTagsNotStale) (fun _ _ h => h) (fun _ _ h => h)
        (fun _ _ _ hl hm => hm.keeps_liveTags hl) ht hs hs,
      fun hs => step_keeps (L := LoaderLaw) (fun _ _ h => h) (fun _ _ h => h)
        (fun _ _ _ hl hm => hm.keeps_loaderLaw hl) ht hs hs⟩

end Sys2Proof.Machine
end

section
/-! The line sets: what the operations on one set keep (R51, R52), and the law along moves. -/

namespace Sys2Proof.Machine

open Sys2Proof.Safety

/-! ### One line set -/

/-- R51 and R52, of one line set. -/
def LineSetOK (ls : LineSet) : Prop := LinesDistinct ls ∧ RecencyExact ls

theorem lineSetOK_allEmpty : LineSetOK LineSet.allEmpty := by
  refine ⟨fun e e' l he => ?_, List.nodup_nil, fun e => ?_⟩ <;> simp [LineSet.allEmpty, LineEntry.line?, LineEntry.dataLine?] at *

/-- Entries keep their line or lose it, and those that lose their data leave the order. -/
theorem lineSetOK_shrink {ls ls' : LineSet} (keep : Ix4 → Bool) (h : LineSetOK ls)
    (hline : ∀ e l, (ls'.entries.get e).line? = some l → (ls.entries.get e).line? = some l)
    (horder : ls'.order = ls.order.filter keep)
    (hdata : ∀ e, (ls'.entries.get e).dataLine?.isSome = ((ls.entries.get e).dataLine?.isSome && keep e)) :
    LineSetOK ls' := by
  obtain ⟨hdistinct, hnodup, hmem⟩ := h
  refine ⟨fun e e' l he he' => hdistinct e e' l (hline e l he) (hline e' l he'), horder ▸ hnodup.filter _, fun e => ?_⟩
  rw [horder, List.mem_filter, hmem e, hdata e, Bool.and_eq_true]

/-- One entry is replaced; it keeps its line or becomes Empty, and neither the old nor the new one holds data. -/
theorem lineSetOK_setEntry {ls : LineSet} {e : Ix4} {x : LineEntry} (h : LineSetOK ls)
    (hline : ∀ l, x.line? = some l → (ls.entries.get e).line? = some l)
    (hold : (ls.entries.get e).dataLine? = none) (hnew : x.dataLine? = none) : LineSetOK (ls.setEntry e x) := by
  refine lineSetOK_shrink (fun _ => true) h (fun e' l => ?_) (by simp [LineSet.setEntry]) fun e' => ?_ <;>
    simp only [LineSet.setEntry, Quad.get_set]
  · split
    next heq => rw [heq]; exact hline l
    · exact id
  · split
    next heq => rw [heq, hold, hnew]; rfl
    · simp

theorem coherentLine?_line {x : LineEntry} {l : Addr} (h : coherentLine? x = some l) : x.line? = some l := by
  cases x with
  | filling l' f =>
    simp only [coherentLine?] at h
    split at h
    · split at h <;> simp_all [LineEntry.line?]
    · split at h <;> simp_all [LineEntry.line?]
  | _ => exact h

/-- An entry takes the data of the line it holds, and becomes most recent (R53, R57). -/
theorem lineSetOK_install {ls : LineSet} {e : Ix4} {x : LineEntry} {l : Addr} {d : LineData} (h : LineSetOK ls)
    (hx : x = .valid l d ∨ x = .prefetched l d) (he : coherentLine? (ls.entries.get e) = some l) :
    LineSetOK (ls.install e x) := by
  obtain ⟨hdistinct, hnodup, hmem⟩ := h
  have hxline : x.line? = some l := by rcases hx with rfl | rfl <;> rfl
  have hxdata : x.dataLine? = some l := by rcases hx with rfl | rfl <;> rfl
  have hline : ∀ e', ((ls.install e x).entries.get e').line? = (ls.entries.get e').line? := by
    intro e'
    simp only [LineSet.install, Quad.get_set]
    split
    next heq => rw [heq, hxline, coherentLine?_line he]
    · rfl
  refine ⟨fun e1 e2 l' h1 h2 => ?_, ?_, fun e' => ?_⟩
  · rw [hline] at h1 h2
    exact hdistinct e1 e2 l' h1 h2
  · exact List.nodup_cons.mpr ⟨by simp, hnodup.filter _⟩
  · simp only [LineSet.install, makeRecent, Quad.get_set, List.mem_cons, List.mem_filter, decide_eq_true_eq]
    by_cases heq : e' = e
    · simp [heq, hxdata]
    · simp [heq, hmem e']

/-- A fill starts in the victim, on a line no entry holds (R55, R63). -/
theorem lineSetOK_startFill {ls : LineSet} {l : Addr} (cls : FillClass) (h : LineSetOK ls) (hl : ls.lookup l = none) :
    LineSetOK (ls.startFill l cls) := by
  obtain ⟨hdistinct, hnodup, hmem⟩ := h
  have hfree := lookup_none hl
  refine ⟨fun e1 e2 l' h1 h2 => ?_, hnodup.filter _, fun e' => ?_⟩
  · simp only [LineSet.startFill, Quad.get_set] at h1 h2
    split at h1 <;> split at h2
    next he1 he2 => exact he1.trans he2.symm
    next => exact absurd (Option.some.inj h1 ▸ h2) (hfree e2)
    next => exact absurd (Option.some.inj h2 ▸ h1) (hfree e1)
    next => exact hdistinct e1 e2 l' h1 h2
  · simp only [LineSet.startFill, Quad.get_set, List.mem_filter, decide_eq_true_eq]
    by_cases heq : e' = ls.victim
    · simp [heq, LineEntry.dataLine?]
    · simp [heq, hmem e']

theorem afterAdmission_line {x : LineEntry} {line l : Addr} (h : (x.afterAdmission line).line? = some l) :
    x.line? = some l := by
  cases x with
  | filling l' f =>
    simp only [LineEntry.afterAdmission] at h
    split at h
    · split at h
      · exact h
      · split at h
        · cases h
        · exact h
    · exact h
  | empty => exact h
  | _ => simp only [LineEntry.afterAdmission] at h; split at h <;> [cases h; exact h]

/-- Data goes exactly with its line (R60). -/
theorem afterAdmission_dataLine (x : LineEntry) (line : Addr) :
    (x.afterAdmission line).dataLine? = x.dataLine?.filter fun l => decide (l ≠ line) := by
  cases x with
  | filling l' f =>
    simp only [LineEntry.afterAdmission]
    split
    · split
      · rfl
      · split <;> rfl
    · rfl
  | empty => rfl
  | _ =>
    simp only [LineEntry.afterAdmission]
    split
    next heq => simp [LineEntry.dataLine?, Option.filter, heq]
    next heq => simp [LineEntry.dataLine?, Option.filter, heq]

theorem lineSetOK_afterAdmission {ls : LineSet} (line : Addr) (h : LineSetOK ls) : LineSetOK (ls.afterAdmission line) := by
  refine lineSetOK_shrink _ h (fun e l => ?_) rfl fun e => ?_ <;> simp only [LineSet.afterAdmission, Quad.get_map]
  · exact afterAdmission_line
  · rw [afterAdmission_dataLine]
    cases (ls.entries.get e).dataLine? with
    | none => rfl
    | some l => by_cases hl : l = line <;> simp [Option.filter, hl]

theorem afterDrainStart_line {x : LineEntry} {l : Addr} (h : x.afterDrainStart.line? = some l) : x.line? = some l := by
  cases x with
  | filling l' f =>
    simp only [LineEntry.afterDrainStart] at h
    split at h
    · cases h
    · exact h
  | _ => exact h

theorem lineSetOK_afterDrainStart {ls : LineSet} (h : LineSetOK ls) : LineSetOK ls.afterDrainStart := by
  refine lineSetOK_shrink (fun _ => true) h (fun e l => ?_) (by simp [LineSet.afterDrainStart]) fun e => ?_ <;>
    simp only [LineSet.afterDrainStart, Quad.get_map]
  · exact afterDrainStart_line
  · cases ls.entries.get e with
    | filling l f =>
      simp only [LineEntry.afterDrainStart]
      split <;> rfl
    | _ => rfl

/-! ### All line sets -/

theorem lineSetLaw_congr {s t : State} (h : t.lineSets = s.lineSets) (hs : LineSetLaw s) : LineSetLaw t := by
  unfold LineSetLaw
  rw [h]
  exact hs

theorem lineSetLaw_setLineSet {s t : State} {p : Port} {ls : LineSet} (ht : t.lineSets = s.lineSets.set p ls)
    (hs : LineSetLaw s) (h : LineSetOK (s.lineSets.get p) → LineSetOK ls) : LineSetLaw t := by
  intro q
  rw [ht, PerPort.get_set]
  split
  next heq => exact h (heq ▸ hs q)
  · exact hs q

theorem lineSetLaw_map {s t : State} {f : LineSet → LineSet} (ht : t.lineSets = s.lineSets.map f)
    (h : ∀ ls, LineSetOK ls → LineSetOK (f ls)) (hs : LineSetLaw s) : LineSetLaw t := by
  intro q
  rw [ht, PerPort.get_map]
  exact h _ (hs q)

theorem lineSetLaw_allEmpty {t : State} (ht : t.lineSets = PerPort.const LineSet.allEmpty) : LineSetLaw t := by
  intro q
  rw [ht, PerPort.get_const]
  exact lineSetOK_allEmpty

theorem admitEntry_lineSets (p : Port) (target : Addr) (body : EntryBody) (s : State) :
    (admitEntry p target body s).lineSets = s.lineSets.map (LineSet.afterAdmission (lineOf target)) := by
  rw [admitEntry_frame]

theorem lineSetLaw_admitEntry (p : Port) (target : Addr) (body : EntryBody) {s : State} (hs : LineSetLaw s) :
    LineSetLaw (admitEntry p target body s) :=
  lineSetLaw_map (admitEntry_lineSets p target body s) (fun _ => lineSetOK_afterAdmission _) hs

theorem loadComplete_lineSets (result : Configuration) (s : State) :
    (loadComplete result s).lineSets = PerPort.const LineSet.allEmpty := by
  unfold loadComplete
  dsimp only
  split <;> rfl

theorem Move.keeps_lineSetLaw {s0 : Event} {s t : State} (h : Move s0 s t) (hs : LineSetLaw s) : LineSetLaw t := by
  cases h with
  | install p e x l d hx he => exact lineSetLaw_setLineSet rfl hs fun hp => lineSetOK_install hp hx he
  | refit p e l f f' he =>
    exact lineSetLaw_setLineSet rfl hs fun hp => lineSetOK_setEntry hp (by rw [he]; exact fun _ h => h) (by rw [he]; rfl) rfl
  | emptyFill p e l f he =>
    exact lineSetLaw_setLineSet rfl hs fun hp => lineSetOK_setEntry hp (fun _ h => by cases h) (by rw [he]; rfl) rfl
  | startFill p l cls hl => exact lineSetLaw_setLineSet rfl hs fun hp => lineSetOK_startFill cls hp hl
  | prefetchIssue i p hi hp =>
    obtain ⟨e, l, f, -, he, -, -, heq⟩ := issuePrefetch_of_candidate i hp
    rw [heq]
    exact lineSetLaw_setLineSet (s := s) (p := p) rfl hs fun hls =>
      lineSetOK_setEntry hls (by rw [he]; exact fun _ h => h) (by rw [he]; rfl) rfl
  | admitOne p target body => exact lineSetLaw_admitEntry p target body hs
  | admitPair p line target m d settled c =>
    exact lineSetLaw_admitEntry p target _ (lineSetLaw_admitEntry p line _ hs)
  | merge p line m d =>
    refine lineSetLaw_map (f := LineSet.afterAdmission line) ?_ (fun _ => lineSetOK_afterAdmission _) hs
    rw [makeVisible_frame]
  | reset p =>
    refine lineSetLaw_setLineSet (p := p) ?_ hs fun _ => lineSetOK_allEmpty
    rw [resetPort_frame]
  | drainStart =>
    refine lineSetLaw_map (f := LineSet.afterDrainStart) ?_ (fun _ => lineSetOK_afterDrainStart) hs
    rw [drainStart_frame]
  | loadComplete result => exact lineSetLaw_allEmpty (loadComplete_lineSets result s)
  | holdReset => exact lineSetLaw_allEmpty rfl
  | releaseReset => exact lineSetLaw_allEmpty rfl
  | arm => exact lineSetLaw_congr (by rw [armClaim_frame]) hs
  | expire => exact lineSetLaw_congr (by rw [takeHoldExpiry_frame]) hs
  | consume => exact lineSetLaw_congr (by rw [consumeClaim_frame]) hs
  | markHead => unfold markHeadIssued; split <;> exact hs
  | release => unfold releasePreset; split <;> exact hs
  | _ => exact hs

/-- Settles O57: by cases on the moves that touch a line set. -/
theorem stepKeepsTheLineSetLaw : Obligations.StepKeepsTheLineSetLaw := fun _ _ hs ht =>
  step_keeps (L := fun _ => True) (fun _ _ h => h) (fun _ _ h => h)
    (fun _ _ _ _ hm => hm.keeps_lineSetLaw) ht trivial hs

end Sys2Proof.Machine
end

section
/-! Reads and writes of one line apart downstream (R60, R85, R92): the queue's lines, its operation in flight, and the
entries that may hold a line. -/

namespace Sys2Proof.Machine

open Sys2Proof.Safety

/-! ### The lines of the queue -/

/-- The lines of the queue's entries, oldest first. -/
def queueLines (s : State) : List Addr := s.queue.map Entry.line

theorem queueHolds_false_iff (l : Addr) (s : State) : queueHolds l s = false ↔ l ∉ queueLines s := by
  simp [queueHolds, queueLines]

/-- An issued head stays at the front, issued and on its line. -/
def KeepsHead (s t : State) : Prop :=
  ∀ e, s.queue.head? = some e → e.issued = true →
    ∃ e', t.queue.head? = some e' ∧ e'.issued = true ∧ e'.line = e.line

theorem keepsHead_of_queue {s t : State} (h : t.queue = s.queue) : KeepsHead s t :=
  fun e he hi => ⟨e, h ▸ he, hi, rfl⟩

/-- Entries rewritten in place that keep their issued fields and lines. -/
theorem keepsHead_of_map {s t : State}
    (h : t.queue.map (fun e => (e.issued, e.line)) = s.queue.map fun e => (e.issued, e.line)) : KeepsHead s t := by
  intro e he hi
  have hhead := congrArg List.head? h
  rw [List.head?_map, List.head?_map, he, Option.map_some, Option.map_eq_some_iff] at hhead
  obtain ⟨e', he', heq⟩ := hhead
  obtain ⟨hissued, hline⟩ := Prod.mk.inj heq
  exact ⟨e', he', hissued.trans hi, hline⟩

theorem keepsHead_append {s t : State} {q : List Entry} (h : t.queue = s.queue ++ q) : KeepsHead s t :=
  fun e he hi => ⟨e, by rw [h, List.head?_append, he]; rfl, hi, rfl⟩

theorem withBytes_issued_line (m : Mask) (d : LineData) (e : Entry) :
    ((e.withBytes m d).issued, (e.withBytes m d).line) = (e.issued, e.line) := by
  obtain ⟨_, _, _, body, _⟩ := e
  cases body <;> rfl

theorem withFailedCode_issued_line (e : Entry) :
    (e.withFailedCode.issued, e.withFailedCode.line) = (e.issued, e.line) := by
  obtain ⟨_, _, _, body, _⟩ := e
  cases body <;> rfl

/-! ### The operations of the queue -/

/-- The parts of the law that read the slots and the queue alone. -/
def QueueOpLaws (s : State) : Prop := OneQueueOperation s ∧ QueueOperationIsHeads s ∧ LinesApart s

theorem slotOfQueue_iff (sl : Slot) :
    slotOfQueue sl = true ↔ ∃ o, sl.occupant = some o ∧ o.owner.ofQueue = true := by
  unfold slotOfQueue
  cases sl.occupant <;> simp

theorem queueInFlight_iff (s : State) :
    queueInFlight s = true ↔ ∃ i o, (s.slots.get i).occupant = some o ∧ o.owner.ofQueue = true := by
  have hslot : queueInFlight s = Ix4.all.any fun i => slotOfQueue (s.slots.get i) := rfl
  simp only [hslot, List.any_eq_true, slotOfQueue_iff, Ix4.mem_all, true_and]

theorem readInFlight_spec {l : Addr} {s : State} (h : readInFlight l s = false) {i : Ix4} {o : Occupant}
    (ho : (s.slots.get i).occupant = some o) (hr : o.owner.countsAsRead = true) : memRequestLine o.req ≠ l := by
  have hi := List.any_eq_false.mp h i (Ix4.mem_all i)
  simpa [ho, hr] using hi

/-- The operations in flight stay, and so does the head while one of them is the queue's. -/
theorem KeepsOps.queueOpLaws {s t : State} (h : KeepsOps s t) (hhead : queueInFlight t = true → KeepsHead s t)
    (hs : QueueOpLaws s) : QueueOpLaws t := by
  obtain ⟨hone, hheads, hapart⟩ := hs
  refine ⟨fun i j hi hj => ?_, fun i o' ho' hq => ?_, fun i j o1' o2' h1' h2' hq hr => ?_⟩
  · obtain ⟨o1', ho1', hq1⟩ := (slotOfQueue_iff _).mp hi
    obtain ⟨o2', ho2', hq2⟩ := (slotOfQueue_iff _).mp hj
    obtain ⟨o1, ho1, hsame1⟩ := h i o1' ho1'
    obtain ⟨o2, ho2, hsame2⟩ := h j o2' ho2'
    exact hone i j ((slotOfQueue_iff _).mpr ⟨o1, ho1, hsame1.ofQueue ▸ hq1⟩)
      ((slotOfQueue_iff _).mpr ⟨o2, ho2, hsame2.ofQueue ▸ hq2⟩)
  · obtain ⟨o, ho, hsame⟩ := h i o' ho'
    obtain ⟨e, he, hissued, hline⟩ := hheads i o ho (hsame.ofQueue ▸ hq)
    obtain ⟨e', he', hissued', hline'⟩ := hhead ((queueInFlight_iff t).mpr ⟨i, o', ho', hq⟩) e he hissued
    exact ⟨e', he', hissued', by rw [hsame.req, hline, hline']⟩
  · obtain ⟨o1, h1, hsame1⟩ := h i o1' h1'
    obtain ⟨o2, h2, hsame2⟩ := h j o2' h2'
    rw [hsame1.req, hsame2.req]
    exact hapart i j o1 o2 h1 h2 (hsame1.ofQueue ▸ hq) (hsame2.countsAsRead ▸ hr)

/-- An operation is issued in one slot: the queue's own for its issued head, with no other of the queue and no read of
the line in flight; a read on a line the queue does not hold. -/
theorem queueOpLaws_issue {s t : State} {i : Ix4} {sl : Slot} {o : Occupant} (hslots : t.slots = s.slots.set i sl)
    (hqueue : t.queue = s.queue) (ho : sl.occupant = some o)
    (hq : o.owner.ofQueue = true → ∃ e, s.queue.head? = some e ∧ e.issued = true ∧ memRequestLine o.req = e.line
      ∧ queueInFlight s = false ∧ readInFlight e.line s = false)
    (hr : o.owner.countsAsRead = true → queueHolds (memRequestLine o.req) s = false)
    (hs : QueueOpLaws s) : QueueOpLaws t := by
  obtain ⟨hone, hheads, hapart⟩ := hs
  have hop : ∀ {j o'}, (t.slots.get j).occupant = some o' →
      (j = i ∧ o' = o) ∨ (j ≠ i ∧ (s.slots.get j).occupant = some o') := by
    intro j o' ho'
    rw [hslots, Quad.get_set] at ho'
    split at ho'
    next heq =>
      rw [ho] at ho'
      exact .inl ⟨heq, (Option.some.inj ho').symm⟩
    next hne => exact .inr ⟨hne, ho'⟩
  have hnoOther : o.owner.ofQueue = true → ∀ {j o'}, (s.slots.get j).occupant = some o' → o'.owner.ofQueue ≠ true := by
    intro hown j o' ho' hown'
    obtain ⟨e, -, -, -, hnone, -⟩ := hq hown
    rw [(queueInFlight_iff s).mpr ⟨j, o', ho', hown'⟩] at hnone
    cases hnone
  refine ⟨fun j k hj hk => ?_, fun j o' ho' hown => ?_, fun j k o1 o2 h1 h2 hown hread => ?_⟩
  · obtain ⟨o1, ho1, hq1⟩ := (slotOfQueue_iff _).mp hj
    obtain ⟨o2, ho2, hq2⟩ := (slotOfQueue_iff _).mp hk
    rcases hop ho1 with ⟨rfl, rfl⟩ | ⟨hj', ho1'⟩ <;> rcases hop ho2 with ⟨rfl, rfl⟩ | ⟨hk', ho2'⟩
    · rfl
    · exact absurd hq2 (hnoOther hq1 ho2')
    · exact absurd hq1 (hnoOther hq2 ho1')
    · exact hone j k ((slotOfQueue_iff _).mpr ⟨o1, ho1', hq1⟩) ((slotOfQueue_iff _).mpr ⟨o2, ho2', hq2⟩)
  · rw [hqueue]
    rcases hop ho' with ⟨rfl, rfl⟩ | ⟨-, hold⟩
    · obtain ⟨e, he, hissued, hline, -, -⟩ := hq hown
      exact ⟨e, he, hissued, hline⟩
    · exact hheads j o' hold hown
  · rcases hop h1 with ⟨rfl, rfl⟩ | ⟨-, h1'⟩ <;> rcases hop h2 with ⟨rfl, rfl⟩ | ⟨-, h2'⟩
    · cases hown' : o2.owner <;> simp [hown', Owner.ofQueue, Owner.countsAsRead] at hown hread
    · obtain ⟨e, -, -, hline, -, hnoread⟩ := hq hown
      rw [hline]
      exact (readInFlight_spec hnoread h2' hread).symm
    · obtain ⟨e, he, -, hline⟩ := hheads j o1 h1' hown
      intro heq
      refine (queueHolds_false_iff _ s).mp (hr hread) ?_
      rw [← heq, hline]
      exact List.mem_map_of_mem (List.mem_of_mem_head? he)
    · exact hapart j k o1 o2 h1' h2' hown hread

/-! ### The entries that may hold a line -/

/-- An entry after a move is on the line it was on, or on a line address; and if it may hold a line, it might before, or
the queue holds no entry on that line. -/
def KeepsEntry (s : State) (x x' : LineEntry) : Prop :=
  ∀ l, (x'.line? = some l → x.line? = some l ∨ lineOf l = l)
    ∧ (coherentLine? x' = some l → coherentLine? x = some l ∨ queueHolds l s = false)

def KeepsEntries (s t : State) : Prop :=
  ∀ p e, KeepsEntry s ((s.lineSets.get p).entries.get e) ((t.lineSets.get p).entries.get e)

theorem KeepsEntry.refl (s : State) (x : LineEntry) : KeepsEntry s x x := fun _ => ⟨.inl, .inl⟩

theorem keepsEntry_empty (s : State) (x : LineEntry) : KeepsEntry s x .empty :=
  fun _ => ⟨fun h => (Option.some_ne_none _ h.symm).elim, fun h => (Option.some_ne_none _ h.symm).elim⟩

theorem keepsEntries_of_lineSets {s t : State} (h : t.lineSets = s.lineSets) : KeepsEntries s t := by
  intro p e
  rw [h]
  exact KeepsEntry.refl s _

/-- One entry of one set is replaced. -/
theorem keepsEntries_setEntry {s t : State} {p : Port} {e : Ix4} {x : LineEntry} {order : List Ix4}
    (ht : t.lineSets = s.lineSets.set p ⟨(s.lineSets.get p).entries.set e x, order⟩)
    (h : KeepsEntry s ((s.lineSets.get p).entries.get e) x) : KeepsEntries s t := by
  intro q e'
  rw [ht, PerPort.get_set]
  split
  next heq =>
    dsimp only
    rw [heq, Quad.get_set]
    split
    next heq' => rw [heq']; exact h
    · exact KeepsEntry.refl s _
  · exact KeepsEntry.refl s _

theorem keepsEntries_allEmpty {s t : State} (h : ∀ p, t.lineSets.get p = s.lineSets.get p ∨ t.lineSets.get p = LineSet.allEmpty) :
    KeepsEntries s t := by
  intro p e
  rcases h p with h | h <;> rw [h]
  · exact KeepsEntry.refl s _
  · simp only [LineSet.allEmpty, Quad.get_const]
    exact keepsEntry_empty s _

theorem keepsEntry_afterDrainStart (s : State) (x : LineEntry) : KeepsEntry s x x.afterDrainStart := by
  cases x with
  | filling l f =>
    simp only [LineEntry.afterDrainStart]
    split
    · exact keepsEntry_empty s _
    · exact KeepsEntry.refl s _
  | _ => exact KeepsEntry.refl s _

theorem coherentLine?_afterAdmission {x : LineEntry} {line l : Addr} (h : coherentLine? (x.afterAdmission line) = some l) :
    coherentLine? x = some l ∧ l ≠ line := by
  have hline := afterAdmission_line (coherentLine?_line h)
  by_cases heq : l = line
  · subst heq
    cases x with
    | filling l' f =>
      obtain rfl := Option.some.inj hline
      cases hi : f.issued <;> cases hc : f.cls <;> simp [LineEntry.afterAdmission, coherentLine?, hi, hc] at h
    | empty => cases hline
    | _ =>
      obtain rfl := Option.some.inj hline
      simp [LineEntry.afterAdmission, coherentLine?] at h
  · have hsame : x.afterAdmission line = x := by
      cases x with
      | empty => rfl
      | _ =>
        obtain rfl := Option.some.inj hline
        simp [LineEntry.afterAdmission, heq]
    rw [hsame] at h
    exact ⟨h, heq⟩

theorem KeepsEntries.linesAligned {s t : State} (h : KeepsEntries s t) (hs : LinesAligned s) : LinesAligned t := by
  intro p e l hl
  rcases (h p e l).1 hl with hold | hnew
  · exact hs p e l hold
  · exact hnew

theorem KeepsEntries.coherence {s t : State} (h : KeepsEntries s t) (hq : queueLines t ⊆ queueLines s)
    (hs : CoherenceLaw s) : CoherenceLaw t := by
  intro p e l hl
  have hno : queueHolds l s = false := ((h p e l).2 hl).elim (hs p e l) id
  rw [queueHolds_false_iff] at hno ⊢
  exact fun hmem => hno (hq hmem)

/-- The queue gains entries on one line alone, and that line goes from every entry that may hold it (R60). -/
theorem coherence_makeVisible {s u : State} {line : Addr} (hsets : u.lineSets = s.lineSets)
    (hq : queueLines u ⊆ line :: queueLines s) (hs : CoherenceLaw s) : CoherenceLaw (makeVisible line u) := by
  intro p e l hl
  rw [makeVisible_frame, hsets] at hl
  simp only [LineSet.afterAdmission, PerPort.get_map, Quad.get_map] at hl
  obtain ⟨hold, hne⟩ := coherentLine?_afterAdmission hl
  have hno := (queueHolds_false_iff l s).mp (hs p e l hold)
  rw [queueHolds_false_iff, queueLines, makeVisible_queue]
  exact fun hmem => ((List.mem_cons.mp (hq hmem)).elim hne hno)

theorem linesAligned_makeVisible {s u : State} (line : Addr) (hsets : u.lineSets = s.lineSets) (hs : LinesAligned s) :
    LinesAligned (makeVisible line u) := by
  intro p e l hl
  rw [makeVisible_frame, hsets] at hl
  simp only [LineSet.afterAdmission, PerPort.get_map, Quad.get_map] at hl
  exact hs p e l (afterAdmission_line hl)

/-! ### The whole law -/

theorem readHoldLaw_of_keeps {s t : State} (hops : KeepsOps s t) (hhead : queueInFlight t = true → KeepsHead s t)
    (hentries : KeepsEntries s t) (hq : queueLines t ⊆ queueLines s) (hs : ReadHoldLaw s) : ReadHoldLaw t :=
  ⟨hentries.linesAligned hs.1, hentries.coherence hq hs.2.1, hops.queueOpLaws hhead hs.2.2⟩

/-- The queue and the slots are untouched. -/
theorem readHoldLaw_of_entries {s t : State} (hqueue : t.queue = s.queue) (hslots : t.slots = s.slots)
    (hentries : KeepsEntries s t) (hs : ReadHoldLaw s) : ReadHoldLaw t :=
  readHoldLaw_of_keeps (keepsOps_of_slots hslots) (fun _ => keepsHead_of_queue hqueue) hentries
    (by rw [queueLines, hqueue]; exact List.Subset.refl _) hs

/-- The line sets and the queue are untouched. -/
theorem readHoldLaw_of_ops {s t : State} (hqueue : t.queue = s.queue) (hsets : t.lineSets = s.lineSets)
    (hops : KeepsOps s t) (hs : ReadHoldLaw s) : ReadHoldLaw t :=
  readHoldLaw_of_keeps hops (fun _ => keepsHead_of_queue hqueue) (keepsEntries_of_lineSets hsets)
    (by rw [queueLines, hqueue]; exact List.Subset.refl _) hs

/-- What becomes visible at an admission to the line of the queue's one new entry, or at a merge. -/
theorem readHoldLaw_makeVisible {s u : State} {line : Addr} (hsets : u.lineSets = s.lineSets) (hslots : u.slots = s.slots)
    (hhead : KeepsHead s u) (hq : queueLines u ⊆ line :: queueLines s) (hs : ReadHoldLaw s) :
    ReadHoldLaw (makeVisible line u) := by
  obtain ⟨haligned, hcoherent, hops⟩ := hs
  refine ⟨linesAligned_makeVisible line hsets haligned, coherence_makeVisible hsets hq hcoherent, ?_⟩
  refine (keepsOps_of_slots ?_).queueOpLaws (fun _ e he hi => ?_) hops
  · rw [makeVisible_frame]
    exact hslots
  · rw [makeVisible_queue]
    exact hhead e he hi

theorem readHoldLaw_admitEntry (p : Port) (target : Addr) (body : EntryBody) {s : State} (hs : ReadHoldLaw s) :
    ReadHoldLaw (admitEntry p target body s) := by
  refine readHoldLaw_makeVisible (s := s) rfl rfl (keepsHead_append rfl) ?_ hs
  intro l hl
  simp only [queueLines, List.map_append, List.map_cons, List.map_nil, List.mem_append, List.mem_singleton] at hl
  exact List.mem_cons.mpr (hl.symm)

theorem readHoldLaw_empty {t : State} (hslots : ∀ i, (t.slots.get i).occupant = none) (hqueue : t.queue = [])
    (hsets : ∀ p, t.lineSets.get p = LineSet.allEmpty) {s : State} (hs : ReadHoldLaw s) : ReadHoldLaw t := by
  refine readHoldLaw_of_keeps (keepsOps_of_empty hslots) (fun hq => ?_) (keepsEntries_allEmpty fun p => .inr (hsets p))
    (by rw [queueLines, hqueue]; exact List.nil_subset _) hs
  obtain ⟨i, o, ho, -⟩ := (queueInFlight_iff t).mp hq
  rw [hslots i] at ho
  cases ho

/-- The address 32 above a line address is a line address. -/
theorem lineOf_add_32 {l : Addr} (h : lineOf l = l) : lineOf (l + 32) = l + 32 := by
  have hl : l.toNat / 32 * 32 = l.toNat := by rw [← lineOf_toNat, h]
  refine BitVec.eq_of_toNat_eq ?_
  have h32 : (32 : Addr).toNat = 32 := rfl
  rw [lineOf_toNat, BitVec.toNat_add, h32]
  omega

theorem Move.keeps_readHoldLaw {s0 : Event} {s t : State} (h0 : ReadHoldLaw s0.start) (h : Move s0 s t)
    (hs : ReadHoldLaw s) : ReadHoldLaw t := by
  have same : ∀ u : State, u.queue = s.queue → u.slots = s.slots → u.lineSets = s.lineSets → ReadHoldLaw u :=
    fun u hqueue hslots hsets => readHoldLaw_of_entries hqueue hslots (keepsEntries_of_lineSets hsets) hs
  cases h with
  | install p e x l d hx he =>
    have hline : x.line? = some l ∧ coherentLine? x = some l := by rcases hx with rfl | rfl <;> exact ⟨rfl, rfl⟩
    refine readHoldLaw_of_entries (s := s) rfl rfl (keepsEntries_setEntry (p := p) rfl fun l' => ?_) hs
    rw [hline.1, hline.2, he, coherentLine?_line he]
    exact ⟨.inl, .inl⟩
  | refit p e l f f' he hc =>
    refine readHoldLaw_of_entries (s := s) rfl rfl (keepsEntries_setEntry (p := p) rfl fun l' => ?_) hs
    rw [he]
    refine ⟨.inl, fun hl => ?_⟩
    obtain rfl := Option.some.inj (coherentLine?_line hl)
    exact hc hl
  | emptyFill p e => exact readHoldLaw_of_entries (s := s) rfl rfl (keepsEntries_setEntry (p := p) (e := e) rfl (keepsEntry_empty s _)) hs
  | startFill p l cls hl ha hc =>
    refine readHoldLaw_of_entries (s := s) rfl rfl (keepsEntries_setEntry (p := p) rfl fun l' => ⟨fun hl' => .inr ?_, fun hl' => .inr ?_⟩) hs
    · obtain rfl := Option.some.inj hl'
      rcases ha with ha | ⟨l0, e, rfl, he⟩
      · exact ha
      · exact lineOf_add_32 (hs.1 p e l0 he)
    · obtain rfl := Option.some.inj (coherentLine?_line hl')
      cases cls with
      | demand => cases hl'
      | prefetch => exact hc rfl
  | issue i owner req timeout _ _ hq hr =>
    obtain ⟨haligned, hcoherent, hops⟩ := hs
    exact ⟨haligned, hcoherent, queueOpLaws_issue (s := s) rfl rfl rfl (fun hown => hq hown h0) hr hops⟩
  | prefetchIssue i p _ hp =>
    obtain ⟨e, l, f, -, he, hcls, hwaits, heq⟩ := issuePrefetch_of_candidate i hp
    rw [heq]
    have hentry := readHoldLaw_of_entries (s := s)
      (t := s.setLineSet p ((s.lineSets.get p).setEntry e (.filling l { f with issued := true }))) rfl rfl
      (keepsEntries_setEntry rfl fun l' => by
        rw [he]
        refine ⟨.inl, fun hl => .inl ?_⟩
        obtain rfl := Option.some.inj (coherentLine?_line hl)
        simp [coherentLine?, hwaits, hcls]) hs
    have hfree : queueHolds (lineOf l) s = false := by
      rw [hs.1 p e l (by rw [he]; rfl)]
      exact hs.2.1 p e l (by rw [he]; simp [coherentLine?, hwaits, hcls])
    obtain ⟨haligned, hcoherent, hops⟩ := hentry
    exact ⟨haligned, hcoherent, queueOpLaws_issue (i := i)
      (s := s.setLineSet p ((s.lineSets.get p).setEntry e (.filling l { f with issued := true })))
      rfl rfl rfl (fun hown => absurd hown Bool.false_ne_true) (fun _ => hfree) hops⟩
  | loaderIssue i =>
    obtain ⟨haligned, hcoherent, hops⟩ := hs
    exact ⟨haligned, hcoherent, queueOpLaws_issue (s := s) (i := i) rfl rfl rfl
      (fun hown => absurd hown Bool.false_ne_true) (fun hread => absurd hread Bool.false_ne_true) hops⟩
  | admitOne p target body => exact readHoldLaw_admitEntry p target body hs
  | admitPair p line target m d settled c => exact readHoldLaw_admitEntry p target _ (readHoldLaw_admitEntry p line _ hs)
  | merge p line m d =>
    refine readHoldLaw_makeVisible (s := s) rfl rfl (keepsHead_of_map ?_) ?_ hs
    · exact mergeIntoTail_map _ m d (withBytes_issued_line m d) s.queue
    · have hlines := mergeIntoTail_map Entry.line m d (fun e => (Prod.mk.inj (withBytes_issued_line m d e)).2) s.queue
      rw [queueLines, hlines]
      exact List.subset_cons_self _ _
  | dropHead hnone =>
    refine readHoldLaw_of_keeps (s := s) (keepsOps_of_slots rfl) (fun hq => ?_) (keepsEntries_of_lineSets rfl) ?_ hs
    · have hnow : queueInFlight (Machine.dropHead s) = false := hnone h0.2.2.1
      exact absurd hq (by simp [hnow])
    · exact List.map_subset _ (List.tail_subset _)
  | rewrite =>
    refine readHoldLaw_of_keeps (s := s) (keepsOps_of_slots rfl) (fun _ => keepsHead_of_map ?_) (keepsEntries_of_lineSets rfl) ?_ hs
    · exact rewriteBehindHead_map (fun e => (e.issued, e.line)) withFailedCode_issued_line s.queue
    · have hlines := rewriteBehindHead_map Entry.line (fun e => (Prod.mk.inj (withFailedCode_issued_line e)).2) s.queue
      rw [queueLines, hlines]
      exact List.Subset.refl _
  | markHead =>
    refine readHoldLaw_of_keeps (s := s) (keepsOps_of_slots ?_) (fun _ e he _ => ?_) (keepsEntries_of_lineSets ?_) ?_ hs
    · unfold markHeadIssued; split <;> rfl
    · rw [markHeadIssued_queue]
      exact ⟨{ e with issued := true }, by rw [List.head?_modifyHead, he]; rfl, rfl, rfl⟩
    · unfold markHeadIssued; split <;> rfl
    · rw [queueLines, markHeadIssued_map Entry.line (fun _ => rfl)]
      exact List.Subset.refl _
  | free i => exact readHoldLaw_of_ops (s := s) rfl rfl (keepsOps_freeSlot i s) hs
  | abandon i g => exact readHoldLaw_of_ops (s := s) rfl rfl (keepsOps_abandonSlot i g s) hs
  | discard t => exact readHoldLaw_of_ops (s := s) rfl rfl (keepsOps_discardCompletion t s) hs
  | tick => exact readHoldLaw_of_ops (s := s) rfl rfl (keepsOps_countBoundary s) hs
  | reset p =>
    have hqueue : (resetPort p s).queue = s.queue := by rw [resetPort_frame]
    refine readHoldLaw_of_keeps (s := s) (keepsOps_resetPort p s) (fun _ => keepsHead_of_queue hqueue)
      (keepsEntries_allEmpty fun q => ?_) (by rw [queueLines, hqueue]; exact List.Subset.refl _) hs
    rw [resetPort_frame, PerPort.get_set]
    split
    · exact .inr rfl
    · exact .inl rfl
  | loadComplete result =>
    refine readHoldLaw_of_entries (s := s) ?_ ?_ (keepsEntries_allEmpty fun q => .inr ?_) hs
    · unfold Machine.loadComplete; dsimp only; split <;> rfl
    · unfold Machine.loadComplete; dsimp only; split <;> rfl
    · rw [loadComplete_lineSets, PerPort.get_const]
  | drainStart =>
    rw [drainStart_frame]
    refine readHoldLaw_of_entries (s := s) rfl rfl (fun p e => ?_) hs
    simp only [LineSet.afterDrainStart, PerPort.get_map, Quad.get_map]
    exact keepsEntry_afterDrainStart s _
  | holdReset => exact readHoldLaw_empty (fun i => by cases i <;> rfl) rfl (PerPort.get_const LineSet.allEmpty) hs
  | releaseReset => exact readHoldLaw_empty (fun i => by cases i <;> rfl) rfl (PerPort.get_const LineSet.allEmpty) hs
  | arm => apply same <;> rw [armClaim_frame]
  | expire => apply same <;> rw [takeHoldExpiry_frame]
  | consume => apply same <;> rw [consumeClaim_frame]
  | release => unfold releasePreset; split <;> exact same _ rfl rfl rfl
  | _ => exact same _ rfl rfl rfl

/-- Settles O58: each move keeps the entries, the queue's lines and its operation apart from the reads. -/
theorem stepKeepsTheReadHoldLaw : Obligations.StepKeepsTheReadHoldLaw := fun _ _ hs ht =>
  step_keeps (L := ReadHoldLaw) (fun _ _ h => h) (fun _ _ h => h)
    (fun _ _ _ h0 hm => hm.keeps_readHoldLaw h0) ht hs hs

end Sys2Proof.Machine
end

section
/-! The device mode and the configuration (R114, R164), and the laws while RESET is asserted. -/

namespace Sys2Proof.Machine

open Sys2Proof.Safety

/-- The command is an assertion or a release of RESET. -/
def IsReset (c : Option Instr) : Prop := c = some .resetAssert ∨ c = some .resetRelease

/-- What a move can do to the mode and the configuration. -/
theorem Move.mode_config {s0 : Event} {s t : State} (h : Move s0 s t) (hl : LoaderLaw s0.start) :
    (t.mode = s.mode ∧ t.config = s.config)
      ∨ (s.mode = .draining ∧ t.mode = .loading ∧ t.config = s.config)
      ∨ (s0.start.mode = .loading ∧ (t.mode = .serving ∨ t.mode = .loading))
      ∨ (s0.start.mode = .serving ∧ s0.command = some .reloadEdge ∧ t.mode = .draining ∧ t.config = s.config)
      ∨ (IsReset s0.command ∧ t.mode = .loading) := by
  cases h with
  | startLoading h => exact .inr (.inl ⟨h, rfl, rfl⟩)
  | loadComplete result h =>
    refine .inr (.inr (.inl ⟨(h hl).1, ?_⟩))
    unfold Machine.loadComplete
    dsimp only
    split
    · exact .inr rfl
    · exact .inl rfl
  | drainStart hc h0 =>
    rw [drainStart_frame]
    exact .inr (.inr (.inr (.inl ⟨h0, hc, rfl, rfl⟩)))
  | holdReset hc => exact .inr (.inr (.inr (.inr ⟨.inl hc, rfl⟩)))
  | releaseReset hc => exact .inr (.inr (.inr (.inr ⟨.inr hc, rfl⟩)))
  | arm => left; rw [armClaim_frame]; exact ⟨rfl, rfl⟩
  | expire => left; rw [takeHoldExpiry_frame]; exact ⟨rfl, rfl⟩
  | consume => left; rw [consumeClaim_frame]; exact ⟨rfl, rfl⟩
  | admitOne => left; rw [admitEntry_frame]; exact ⟨rfl, rfl⟩
  | admitPair => left; rw [admitEntry_frame, admitEntry_frame]; exact ⟨rfl, rfl⟩
  | merge => left; rw [makeVisible_frame]; exact ⟨rfl, rfl⟩
  | reset => left; rw [resetPort_frame]; exact ⟨rfl, rfl⟩
  | markHead => left; unfold markHeadIssued; split <;> exact ⟨rfl, rfl⟩
  | release => left; unfold releasePreset; split <;> exact ⟨rfl, rfl⟩
  | prefetchIssue => left; unfold issuePrefetch; split <;> (try split) <;> exact ⟨rfl, rfl⟩
  | _ => exact .inl ⟨rfl, rfl⟩

/-- Where an event may have brought the mode so far (R164). -/
inductive ModeReached (s0 : Event) : Mode → Prop
  | same : ModeReached s0 s0.start.mode
  | loaded (h : s0.start.mode = .loading) : ModeReached s0 .serving
  | drained (h : s0.start.mode = .draining) : ModeReached s0 .loading
  | reload (h : s0.start.mode = .serving) (hc : s0.command = some .reloadEdge) (m : Mode) (hm : m ≠ .serving) :
      ModeReached s0 m
  | reset (hc : IsReset s0.command) : ModeReached s0 .loading

/-- The mode has moved as R164 lists, and the configuration in Loading or with RESET alone (R114). -/
def MovedAsListed (s0 : Event) (u : State) : Prop :=
  ModeReached s0 u.mode ∧ (u.config = s0.start.config ∨ s0.start.mode = .loading ∨ IsReset s0.command)

theorem Move.keeps_movedAsListed {s0 : Event} {s t : State} (hl : LoaderLaw s0.start) (h : Move s0 s t)
    (hs : MovedAsListed s0 s) : MovedAsListed s0 t := by
  obtain ⟨hmode, hconfig⟩ := hs
  rcases h.mode_config hl with ⟨hm, hc⟩ | ⟨hd, hm, hc⟩ | ⟨h0, hm⟩ | ⟨h0, hcmd, hm, hc⟩ | ⟨hcmd, hm⟩
  · exact ⟨hm ▸ hmode, hc ▸ hconfig⟩
  · refine ⟨?_, hc ▸ hconfig⟩
    rw [hd] at hmode
    rw [hm]
    generalize hx : Mode.draining = x at hmode
    cases hmode with
    | same => exact .drained hx.symm
    | reload h0 hcmd => exact .reload h0 hcmd _ Mode.noConfusion
    | loaded => cases hx
    | drained => cases hx
    | reset => cases hx
  · refine ⟨?_, .inr (.inl h0)⟩
    rcases hm with hm | hm <;> rw [hm]
    · exact .loaded h0
    · exact h0 ▸ .same
  · exact ⟨hm ▸ .reload h0 hcmd _ Mode.noConfusion, hc ▸ hconfig⟩
  · exact ⟨hm ▸ .reset hcmd, .inr (.inr hcmd)⟩

theorem Moves.movedAsListed {s : State} {c : Option Instr} {t : State} (hl : LoaderLaw s) (h : Moves ⟨s, c⟩ s t) :
    MovedAsListed ⟨s, c⟩ t :=
  h.keep (fun _ _ hm => hm.keeps_movedAsListed hl) ⟨.same, .inl rfl⟩

theorem MovedAsListed.leaves_serving {s t : State} {c : Option Instr} (h : MovedAsListed ⟨s, c⟩ t)
    (hs : s.mode = .serving) (ht : t.mode ≠ .serving) : c = some .reloadEdge ∨ IsReset c := by
  obtain ⟨hmode, -⟩ := h
  generalize t.mode = m at hmode ht
  cases hmode with
  | same => exact absurd hs ht
  | loaded => exact absurd rfl ht
  | drained h0 => rw [hs] at h0; cases h0
  | reload _ hc => exact .inl hc
  | reset hc => exact .inr hc

theorem MovedAsListed.reaches_serving {s t : State} {c : Option Instr} (h : MovedAsListed ⟨s, c⟩ t)
    (ht : t.mode = .serving) : s.mode = .serving ∨ s.mode = .loading := by
  obtain ⟨hmode, -⟩ := h
  generalize t.mode = m at hmode ht
  cases hmode with
  | same => exact .inl ht
  | loaded h0 => exact .inr h0
  | drained => cases ht
  | reload _ _ _ hm => exact absurd ht hm
  | reset => cases ht

theorem MovedAsListed.reaches_draining {s t : State} {c : Option Instr} (h : MovedAsListed ⟨s, c⟩ t)
    (ht : t.mode = .draining) : s.mode = .draining ∨ (s.mode = .serving ∧ c = some .reloadEdge) := by
  obtain ⟨hmode, -⟩ := h
  generalize t.mode = m at hmode ht
  cases hmode with
  | same => exact .inl ht
  | reload h0 hc => exact .inr ⟨h0, hc⟩
  | loaded => cases ht
  | drained => cases ht
  | reset => cases ht

/-- Settles O60: along the moves of an event the mode and the configuration move as listed. -/
theorem modeAndConfigurationMoveAsListed : Obligations.ModeAndConfigurationMoveAsListed := by
  constructor
  · intro c s t hl ht
    obtain ⟨t', hexec, hmoves⟩ := exec_moves c s
    obtain rfl : t' = t := by
      rw [hexec] at ht
      exact Host.Outcome.next.inj ht
    have h := hmoves.movedAsListed hl
    refine ⟨fun hs hne => ?_, h.reaches_serving, fun hd => ?_, fun hc => ?_⟩
    · simpa [IsReset] using h.leaves_serving hs hne
    · simpa using h.reaches_draining hd
    · simpa [IsReset] using h.2.resolve_left hc
  · intro s t hl hpending ht
    have hevent : Moves ⟨s, none⟩ s (tickEvent (beginEvent s)) :=
      moves_event (moves_tickEvent _ _ rfl (begins_beginEvent s none))
    obtain rfl : tickEvent (beginEvent s) = t := by
      rw [step, hpending] at ht
      exact Host.Outcome.next.inj ht
    have h := hevent.movedAsListed hl
    refine ⟨fun hs => ?_, h.reaches_serving, fun hd => ?_, fun hc => ?_⟩
    · by_contra hne
      simpa [IsReset] using h.leaves_serving hs hne
    · simpa using h.reaches_draining hd
    · simpa [IsReset] using h.2.resolve_left hc

/-! ### The laws while RESET is asserted -/

theorem readHoldLaw_reset : ReadHoldLaw State.reset := by
  have hentries : ∀ p e, (State.reset.lineSets.get p).entries.get e = .empty := fun p e => by cases p <;> cases e <;> rfl
  have hslots : ∀ i, (State.reset.slots.get i).occupant = none := fun i => by cases i <;> rfl
  refine ⟨fun p e l h => ?_, fun p e l h => ?_, fun i j h => ?_, fun i o h => ?_, fun i j o o' h => ?_⟩
  · rw [hentries] at h; cases h
  · rw [hentries] at h; cases h
  · rw [slotOfQueue, hslots] at h; cases h
  · rw [hslots] at h; cases h
  · rw [hslots] at h; cases h

theorem waitingLaw_reset : WaitingLaw State.reset := by
  have hports : ∀ p, State.reset.ports.get p = .idle := PerPort.get_const _
  refine ⟨List.nodup_nil, fun p => ?_, fun p => ?_⟩ <;> rw [hports p]
  · exact iff_of_false List.not_mem_nil id
  · trivial

/-- Settles O52: every block is empty, and RESET is asserted. -/
theorem resetStateKeepsTheLaws : Obligations.ResetStateKeepsTheLaws := by
  have hslots : ∀ i, (State.reset.slots.get i).occupant = none := fun i => by cases i <;> rfl
  have hclaims : ∀ c, State.reset.claimTable.get c = none := Quad.get_const none
  refine ⟨⟨Nat.zero_le _, Nat.zero_le _⟩, waitingLaw_reset, rfl, claimLaw_cleared hclaims (PerPort.get_const ClaimStatus.none),
    fun _ => hclaims, lineSetLaw_allEmpty rfl, readHoldLaw_reset, fun i o ho => ?_, loaderLaw_of_noRead (fun _ => rfl) ?_,
    fun h => ?_⟩
  · rw [hslots i] at ho; cases ho
  · intro i o ho
    rw [hslots i] at ho
    cases ho
  · cases h

end Sys2Proof.Machine
end

section
/-! What becomes visible at an admission or a merge: the line sets (R60) and the claims (R36). -/

namespace Sys2Proof.Machine

open Sys2Proof.Safety

/-- The state after an admission to a line, or after the effects a merge has on its line. -/
def VisibleOn (line : Addr) (s t : State) : Prop :=
  t = makeVisible line s ∨ ∃ p target body, line = lineOf target ∧ t = admitEntry p target body s

theorem VisibleOn.lineSets {line : Addr} {s t : State} (h : VisibleOn line s t) :
    t.lineSets = s.lineSets.map (LineSet.afterAdmission line) := by
  rcases h with rfl | ⟨p, target, body, rfl, rfl⟩
  · rw [makeVisible_frame]
  · exact admitEntry_lineSets p target body s

theorem afterAdmission_order (line : Addr) (ls : LineSet) :
    (ls.afterAdmission line).order =
      ls.order.filter fun x =>
        match ls.entries.get x with
        | .valid l _ => decide (l ≠ line)
        | .prefetched l _ => decide (l ≠ line)
        | _ => true := by
  refine List.filter_congr fun e _ => ?_
  cases ls.entries.get e <;> simp [LineEntry.dataLine?]

/-- Settles O22: every set is mapped, and the table of R60 is read off the entry's cases. -/
theorem admissionDropsLineEverywhere : Obligations.AdmissionDropsLineEverywhere := by
  intro q e line s t ht
  have hset : t.lineSets.get q = (s.lineSets.get q).afterAdmission line := by
    rw [VisibleOn.lineSets ht, PerPort.get_map]
  have hentry : (t.lineSets.get q).entries.get e = ((s.lineSets.get q).entries.get e).afterAdmission line := by
    rw [hset]
    exact Quad.get_map ..
  rw [hentry, hset]
  refine ⟨fun l d he => ?_, fun l d he => ?_, fun l f he hl hi => ?_, fun l f he hl hi hc => ?_, fun l f he h => ?_,
    fun he => ?_, afterAdmission_order line _⟩ <;> rw [he]
  · rfl
  · rfl
  · simp [LineEntry.afterAdmission, hl, hi]
  · simp [LineEntry.afterAdmission, hl, hi, hc]
  · rcases h with hl | ⟨hi, hc⟩
    · simp [LineEntry.afterAdmission, hl]
    · simp [LineEntry.afterAdmission, hi, hc]
  · rfl

/-! ### The claims on the line -/

/-- An admission to a line breaks the claims on it, as `breakClaims` does, after a change elsewhere. -/
theorem VisibleOn.eq_breakClaims {line : Addr} {s t : State} (h : VisibleOn line s t) :
    ∃ u : State, u.claimTable = s.claimTable ∧ u.claimStatus = s.claimStatus ∧ t = breakClaims line u := by
  rcases h with rfl | ⟨p, target, body, rfl, rfl⟩
  · exact ⟨{ s with lineSets := s.lineSets.map (LineSet.afterAdmission line) }, rfl, rfl, rfl⟩
  · exact
      ⟨{ s with
          queue := s.queue ++ [⟨s.nextSerial, p, target, body, false⟩]
          nextSerial := s.nextSerial + 1
          lineSets := s.lineSets.map (LineSet.afterAdmission (lineOf target)) }, rfl, rfl, rfl⟩

theorem breakClaims_table (line : Addr) (s : State) (c : Ix4) :
    (breakClaims line s).claimTable.get c = (s.claimTable.get c).filter fun cl => !decide (cl.line = line) := by
  rw [breakClaims_eq, lapseAll_table, if_pos (Ix4.mem_all c)]

/-- The owner of a claim on the line is Lapsed with reason Broken; every other status stays (R36). -/
theorem breakClaims_status (line : Addr) {s : State} (hs : ClaimLaw s) (q : Port) :
    (breakClaims line s).claimStatus.get q =
      match s.claimStatus.get q with
      | .held c => if (s.claimTable.get c).map Claim.line = some line then .lapsed .broken line else .held c
      | x => x := by
  rw [breakClaims_eq]
  have hother : (∀ c cl, s.claimStatus.get q = .held c → s.claimTable.get c = some cl → cl.line ≠ line) →
      (lapseAll (fun cl => decide (cl.line = line)) .broken Ix4.all s).claimStatus.get q = s.claimStatus.get q :=
    fun h => lapseAll_status_other Ix4.all hs fun c cl hq hc => by simpa using h c cl hq hc
  cases hq : s.claimStatus.get q with
  | held c =>
    obtain ⟨cl, hc, -⟩ := hs.2 q c hq
    simp only [hc, Option.map_some, Option.some.injEq]
    split
    next hl => rw [lapseAll_status_held hs (Ix4.mem_all c) hq hc (by simpa using hl), hl]
    next hl =>
      rw [hother ?_, hq]
      rintro c' cl' hq' hc'
      rw [hq] at hq'
      cases hq'
      rw [hc] at hc'
      cases hc'
      exact hl
  | none => rw [hother ?_, hq]; simp [hq]
  | lapsed => rw [hother ?_, hq]; simp [hq]

/-- Settles O23: the claims of the line's kind lapse, and the frames say that nothing else changes. -/
theorem admissionBreaksClaimsOnItsLine : Obligations.AdmissionBreaksClaimsOnItsLine := by
  refine ⟨fun line s t hs ht => ?_, fun line s => ?_, fun p target body s => ?_⟩
  · obtain ⟨u, htable, hstatus, rfl⟩ := VisibleOn.eq_breakClaims ht
    refine ⟨fun c => ?_, fun q => ?_⟩
    · rw [breakClaims_table, htable]
      cases s.claimTable.get c with
      | none => rfl
      | some cl => by_cases hl : cl.line = line <;> simp [Option.filter, hl]
    · have hq := breakClaims_status line (claimLaw_congr htable hstatus hs) q
      rw [htable, hstatus] at hq
      exact hq.trans (by cases s.claimStatus.get q <;> rfl)
  · rw [makeVisible_frame]
  · rw [admitEntry_frame]

end Sys2Proof.Machine
end

section
/-! The end of the claims at a drain start (R44) and at a port's reset (R46), and the two commands (R127, R174). -/

namespace Sys2Proof.Machine

open Sys2Proof.Safety

/-- Every holder is Lapsed with reason Dropped and its claim's line; every other status stays (R44). -/
theorem dropClaims_status {s : State} (hs : ClaimLaw s) (p : Port) :
    (dropClaims s).claimStatus.get p =
      match s.claimStatus.get p with
      | .held c => .lapsed .dropped ((s.claimTable.get c).elim 0 Claim.line)
      | x => x := by
  rw [dropClaims_eq]
  cases hp : s.claimStatus.get p with
  | held c =>
    obtain ⟨cl, hc, -⟩ := hs.2 p c hp
    rw [lapseAll_status_held hs (Ix4.mem_all c) hp hc rfl]
    simp [hc]
  | none => rw [lapseAll_status_other Ix4.all hs (by simp [hp]), hp]
  | lapsed => rw [lapseAll_status_other Ix4.all hs (by simp [hp]), hp]

theorem drainStart_status {s : State} (hs : ClaimLaw s) (p : Port) :
    (drainStart s).claimStatus.get p =
      match s.claimStatus.get p with
      | .held c => .lapsed .dropped ((s.claimTable.get c).elim 0 Claim.line)
      | x => x :=
  dropClaims_status (s := { s with mode := .draining, lineSets := s.lineSets.map LineSet.afterDrainStart })
    (claimLaw_congr rfl rfl hs) p

/-! ### RELOAD_EDGE -/

theorem exec_reloadEdge (s : State) : exec .reloadEdge s = .next (finishEvent (takeReloadEdge (beginEvent s))) := rfl

theorem takeReloadEdge_serving {s : State} (hr : s.resetLine = false) (hm : s.mode = .serving) :
    takeReloadEdge s = drainStart s := by
  simp [takeReloadEdge, hr, hm]

theorem takeReloadEdge_latch {s : State} (hr : s.resetLine = false) (hm : s.mode ≠ .serving) :
    takeReloadEdge s = { s with reloadLatch := true } := by
  unfold takeReloadEdge
  cases h : s.mode with
  | serving => exact absurd h hm
  | _ => simp [hr]

/-- An edge is not taken while RESET is asserted (R174). -/
theorem takeReloadEdge_inReset {s : State} (hr : s.resetLine = true) : takeReloadEdge s = s := by
  simp [takeReloadEdge, hr]

theorem portHoldsNone_iff (x : PortState) : x.holdsNone = true ↔ x = .idle ∨ x = .reset := by
  cases x <;> simp [PortState.holdsNone]

/-- While the device does not serve, the event ends with the drain's test alone. -/
theorem finishEvent_notServing (s : State) (h : s.mode ≠ .serving) : finishEvent s = drainTest s := by
  unfold finishEvent
  rw [acceptHeld_none s (readyPorts_notServing s h)]

theorem drainTest_draining (s : State) (h : s.mode = .draining) :
    drainTest s = if drainComplete s = true then startLoading s else s := by
  simp [drainTest, h]

/-- A demand read waits at a port in ReadWait alone. -/
theorem demandCandidate_holdsNone {p : Port} {s : State} (h : (s.ports.get p).holdsNone = true) :
    demandCandidate p s = false := by
  rcases (portHoldsNone_iff _).mp h with h | h <;> simp [demandCandidate, waitingDemand, h]

/-- The drain completion condition, with its candidates resolved: with the queue empty and no port holding a request,
what may still wait is a prefetch (R99, R176). -/
theorem drainComplete_iff (s : State) (hm : s.mode = .draining) :
    drainComplete s = true ↔ NothingInHand s ∧ ∀ p, (s.lineSets.get p).waitingPrefetch = none := by
  have hp : ∀ p, (s.ports.get p).holdsNone = true ↔ s.ports.get p = .idle ∨ s.ports.get p = .reset :=
    fun p => portHoldsNone_iff _
  simp only [drainComplete, downstreamIdle, anyCandidate, Bool.and_eq_true, List.all_eq_true, Port.mem_all, Ix4.mem_all,
    true_implies, decide_eq_true_eq, Bool.not_eq_true', Bool.or_eq_false_iff, List.any_eq_false, hp, NothingInHand,
    Option.isNone_iff_eq_none]
  constructor
  · rintro ⟨⟨⟨hports, hqueue⟩, hstaging⟩, hslots, -, hprefetch⟩
    refine ⟨⟨hports, hqueue, hstaging, hslots⟩, fun p => ?_⟩
    simpa [prefetchCandidate] using hprefetch p
  · rintro ⟨⟨hports, hqueue, hstaging, hslots⟩, hprefetch⟩
    refine ⟨⟨⟨hports, hqueue⟩, hstaging⟩, hslots, ⟨⟨by simp [loaderCandidate, hm], by simp [headCandidate, hqueue]⟩,
      fun p => ?_⟩, fun p => ?_⟩
    · simp [demandCandidate_holdsNone ((portHoldsNone_iff _).mpr (hports p))]
    · simp [prefetchCandidate, hprefetch p]

theorem afterDrainStart_waitingPrefetch (x : LineEntry) : x.afterDrainStart.waitingPrefetch? = none := by
  cases x with
  | filling l f =>
    simp only [LineEntry.afterDrainStart]
    split
    · rfl
    next h => simp [LineEntry.waitingPrefetch?, h]
  | _ => rfl

theorem drainStart_noPrefetch (s : State) (p : Port) : ((drainStart s).lineSets.get p).waitingPrefetch = none := by
  rw [drainStart_frame]
  simp [LineSet.waitingPrefetch, LineSet.afterDrainStart, afterDrainStart_waitingPrefetch]

theorem startLoading_eq (s : State) :
    startLoading s =
      { s with
        mode := .loading
        straps := Config.strapLevels s.freeCount
        freeCount := s.freeCount + 1
        loader := ⟨.header, true, BitVec.ofNat 28 (0x400000 * (Config.strapLevels s.freeCount).toNat), []⟩ } := rfl

/-- The drain that starts with nothing in hand ends in the same event (R176). -/
theorem finishEvent_drainStart (s : State) :
    (NothingInHand s → finishEvent (drainStart s) = startLoading (drainStart s))
      ∧ (¬ NothingInHand s → finishEvent (drainStart s) = drainStart s) := by
  have hm : (drainStart s).mode = .draining := by rw [drainStart_frame]
  have hhand : NothingInHand (drainStart s) ↔ NothingInHand s := by
    rw [drainStart_frame]
    rfl
  have hcomplete : drainComplete (drainStart s) = true ↔ NothingInHand s := by
    rw [drainComplete_iff _ hm, hhand]
    exact and_iff_left (drainStart_noPrefetch s)
  rw [finishEvent_notServing _ (by simp [hm]), drainTest_draining _ hm]
  exact ⟨fun h => if_pos (hcomplete.mpr h), fun h => if_neg (mt hcomplete.mp h)⟩

/-- Settles O48: the mode decides, and in Serving the drain start's parts are read off its frame. -/
theorem reloadEdgeActsByMode : Obligations.ReloadEdgeActsByMode := by
  intro s
  refine ⟨fun hr hm hs => ?_, fun hr hm => ?_, fun hr hm => ?_, fun hr hm => ?_⟩
  · have hexec : exec .reloadEdge s = .next (finishEvent (drainStart (beginEvent s))) := by
      rw [exec_reloadEdge, takeReloadEdge_serving (s := beginEvent s) hr hm]
    obtain ⟨hdone, hgoes⟩ := finishEvent_drainStart (beginEvent s)
    refine ⟨drainStart (beginEvent s), fun c => dropClaims_table _ c, drainStart_status (s := beginEvent s) hs, fun p => ?_,
      by rw [drainStart_frame]; rfl, fun h => ?_, fun h => ?_⟩
    · rw [drainStart_frame]
      refine ⟨by simp [beginEvent, LineSet.afterDrainStart], fun e => ?_⟩
      simp only [beginEvent, LineSet.afterDrainStart, PerPort.get_map, Quad.get_map]
      cases (s.lineSets.get p).entries.get e <;> rfl
    · rw [hexec, hgoes h]
    · rw [hexec, hdone h, startLoading_eq]
      congr 1
      rw [drainStart_frame]
      rfl
  · rw [exec_reloadEdge, takeReloadEdge_latch (s := beginEvent s) hr (fun h => Mode.noConfusion (hm.symm.trans h))]
    exact congrArg _ (finishEvent_loading { beginEvent s with reloadLatch := true } hm)
  · rw [exec_reloadEdge, takeReloadEdge_latch (s := beginEvent s) hr (fun h => Mode.noConfusion (hm.symm.trans h))]
    rfl
  · rw [exec_reloadEdge, takeReloadEdge_inReset (s := beginEvent s) hr]
    exact congrArg _ (finishEvent_loading (beginEvent s) hm)

end Sys2Proof.Machine
end

section
/-! The end of an event (R120, R173, R176): which ports accept, one after another, and that an acceptance of one leaves
the others ready. -/

namespace Sys2Proof.Machine

open Sys2Proof.Safety

/-! ### The ports that are ready -/

theorem canAccept_iff (p : Port) (s : State) :
    canAccept p s = true ↔ s.ports.get p = .idle ∧ s.mode = .serving ∧ s.presetLines.get p = false := by
  simp [canAccept, and_assoc]

theorem mem_readyPorts (p : Port) (s : State) : p ∈ readyPorts s ↔ ReadyToAccept p s := by
  simp [readyPorts, ReadyToAccept, canAccept_iff, Option.isSome_iff_ne_none]

theorem readyPorts_nodup (s : State) : (readyPorts s).Nodup :=
  List.Nodup.filter _ (by decide : Port.all.Nodup)

theorem readyToAccept_iff (p : Port) (s : State) :
    ReadyToAccept p s ↔ ∃ r, s.links.get p = some r ∧ canAccept p s = true := by
  rw [ReadyToAccept, canAccept_iff, Option.ne_none_iff_exists']
  simp

/-- Port p accepts the request its link held in state s. -/
def acceptLinked (s t : State) (p : Port) : State :=
  match s.links.get p with
  | some r => accept p r { t with links := t.links.set p none }
  | none => t

theorem acceptFromLink_of_ready {s t : State} {p : Port} (hlink : t.links.get p = s.links.get p)
    (h : ReadyToAccept p t) : acceptFromLink p t = acceptLinked s t p := by
  obtain ⟨r, hr, hc⟩ := (readyToAccept_iff p t).mp h
  unfold acceptFromLink acceptLinked
  rw [← hlink, hr]
  exact if_pos hc

theorem acceptFromLink_of_notReady {s : State} {p : Port} (h : ¬ ReadyToAccept p s) : acceptFromLink p s = s := by
  unfold acceptFromLink
  cases hr : s.links.get p with
  | none => rfl
  | some r =>
    refine if_neg fun hc => h ?_
    exact (readyToAccept_iff p s).mpr ⟨r, hr, hc⟩

/-- An acceptance changes its own link and port alone: every other port is as ready as before. -/
theorem acceptLinked_others (s t : State) {p q : Port} (hq : q ≠ p) :
    (acceptLinked s t p).links.get q = t.links.get q ∧ (ReadyToAccept q t → ReadyToAccept q (acceptLinked s t p)) := by
  unfold acceptLinked
  cases s.links.get p with
  | none => exact ⟨rfl, id⟩
  | some r =>
    obtain ⟨hlinks, hmode, hpreset⟩ := linkSide_accept p r { t with links := t.links.set p none }
    have hother := accept_sameOthers p r { t with links := t.links.set p none } q hq
    have hget : (accept p r { t with links := t.links.set p none }).links.get q = t.links.get q := by
      rw [hlinks]
      exact PerPort.get_set_other _ _ hq
    refine ⟨hget, fun ⟨h1, h2, h3, h4⟩ => ⟨by rw [hget]; exact h1, hother.trans h2, hmode.trans h3, ?_⟩⟩
    rw [hpreset]
    exact h4

theorem acceptLinked_mode (s t : State) (p : Port) : (acceptLinked s t p).mode = t.mode := by
  unfold acceptLinked
  cases s.links.get p with
  | none => rfl
  | some r => exact (linkSide_accept p r { t with links := t.links.set p none }).2.1

/-- Ready ports accept one after another, each the request its link held at the start. -/
theorem foldl_acceptFromLink (s : State) (ps : List Port) (t : State) (hnodup : ps.Nodup)
    (hready : ∀ p ∈ ps, t.links.get p = s.links.get p ∧ ReadyToAccept p t) :
    ps.foldl (fun u p => acceptFromLink p u) t = ps.foldl (acceptLinked s) t
      ∧ (ps.foldl (acceptLinked s) t).mode = t.mode := by
  induction ps generalizing t with
  | nil => exact ⟨rfl, rfl⟩
  | cons p ps ih =>
    obtain ⟨hp, hnodup⟩ := List.nodup_cons.mp hnodup
    obtain ⟨hlink, hnow⟩ := hready p List.mem_cons_self
    rw [List.foldl_cons, List.foldl_cons, acceptFromLink_of_ready hlink hnow]
    obtain ⟨hfold, hmode⟩ := ih (acceptLinked s t p) hnodup fun q hq => by
      have hne : q ≠ p := fun heq => hp (heq ▸ hq)
      obtain ⟨hlink', hready'⟩ := acceptLinked_others s t hne
      obtain ⟨hlinkq, hreadyq⟩ := hready q (List.mem_cons_of_mem p hq)
      exact ⟨hlink'.trans hlinkq, hready' hreadyq⟩
    exact ⟨hfold, hmode.trans (acceptLinked_mode s t p)⟩

/-! ### The order of acceptances -/

theorem insertByRank_perm (rank : Port → Nat) (p : Port) (ps : List Port) : (insertByRank rank p ps).Perm (p :: ps) := by
  induction ps with
  | nil => exact List.Perm.refl _
  | cons q rest ih =>
    unfold insertByRank
    split
    · exact List.Perm.refl _
    · exact (ih.cons q).trans (List.Perm.swap p q rest)

theorem sortByRank_perm (rank : Port → Nat) (ps : List Port) : (sortByRank rank ps).Perm ps := by
  have hfold : ∀ acc, (ps.foldl (fun acc p => insertByRank rank p acc) acc).Perm (ps ++ acc) := by
    induction ps with
    | nil => exact fun acc => List.Perm.refl _
    | cons p ps ih =>
      intro acc
      exact (ih _).trans (((insertByRank_perm rank p acc).append_left ps).trans List.perm_middle)
  simpa [sortByRank] using hfold []

/-- What an event in Serving ends with: the ready ports accept in some order (log entry 4). -/
theorem finishEvent_ofServing (s : State) (hm : s.mode = .serving) :
    ∃ ps : List Port, ps.Nodup ∧ (∀ p, p ∈ ps ↔ ReadyToAccept p s)
      ∧ finishEvent s = ps.foldl (acceptLinked s)
          { s with freeCount := if ps.length ≤ 1 then s.freeCount else s.freeCount + 1 } := by
  have hend : ∀ (ps : List Port) (t : State), ps.Perm (readyPorts s) → t.links = s.links → t.mode = .serving →
      (∀ p, ReadyToAccept p s → ReadyToAccept p t) →
      drainTest (ps.foldl (fun u p => acceptFromLink p u) t) = ps.foldl (acceptLinked s) t := by
    intro ps t hperm hlinks htm hready
    obtain ⟨hfold, hmode⟩ := foldl_acceptFromLink s ps t (hperm.nodup_iff.mpr (readyPorts_nodup s)) fun p hp =>
      ⟨by rw [hlinks], hready p ((mem_readyPorts p s).mp (hperm.mem_iff.mp hp))⟩
    rw [hfold, drainTest_notDraining _ (by rw [hmode, htm]; exact Mode.noConfusion)]
  have hone : (∀ p q rest, readyPorts s ≠ p :: q :: rest) →
      acceptHeld s = (readyPorts s).foldl (fun u p => acceptFromLink p u) s := by
    intro h
    unfold acceptHeld
    match hrp : readyPorts s with
    | [] => rfl
    | [p] => rfl
    | p :: q :: rest => exact absurd hrp (h p q rest)
  by_cases hlen : (readyPorts s).length ≤ 1
  · refine ⟨readyPorts s, readyPorts_nodup s, fun p => mem_readyPorts p s, ?_⟩
    rw [finishEvent, hone ?_, hend _ s (List.Perm.refl _) rfl hm (fun _ h => h), if_pos hlen]
    intro p q rest heq
    rw [heq, List.length_cons, List.length_cons] at hlen
    omega
  · have hperm := sortByRank_perm (Config.acceptRank s.freeCount) (readyPorts s)
    refine ⟨sortByRank (Config.acceptRank s.freeCount) (readyPorts s), hperm.nodup_iff.mpr (readyPorts_nodup s),
      fun p => hperm.mem_iff.trans (mem_readyPorts p s), ?_⟩
    have hheld : acceptHeld s = (sortByRank (Config.acceptRank s.freeCount) (readyPorts s)).foldl
        (fun u p => acceptFromLink p u) { s with freeCount := s.freeCount + 1 } := by
      unfold acceptHeld
      match hrp : readyPorts s with
      | [] => simp [hrp] at hlen
      | [p] => simp [hrp] at hlen
      | p :: q :: rest => rfl
    rw [finishEvent, hheld, hend _ { s with freeCount := s.freeCount + 1 } hperm rfl hm (fun _ h => h),
      hperm.length_eq, if_neg hlen]

/-- With at most one port ready, the event ends with its acceptance. -/
theorem finishEvent_onlyPort {s : State} (p : Port) (hm : s.mode = .serving)
    (h : ∀ q, q ≠ p → ¬ ReadyToAccept q s) : finishEvent s = acceptFromLink p s := by
  obtain ⟨ps, hnodup, hmem, heq⟩ := finishEvent_ofServing s hm
  have hall : ∀ q ∈ ps, q = p := fun q hq => by
    by_contra hne
    exact h q hne ((hmem q).mp hq)
  match ps, hnodup with
  | [], _ =>
    rw [heq, acceptFromLink_of_notReady (mt (hmem p).mpr List.not_mem_nil)]
    rfl
  | [q], _ =>
    obtain rfl := hall q List.mem_cons_self
    rw [heq, acceptFromLink_of_ready rfl ((hmem q).mp List.mem_cons_self)]
    rfl
  | q :: q' :: rest, hnodup =>
    have h1 := hall q (by simp)
    have h2 := hall q' (by simp)
    simp [h1, h2] at hnodup

/-! ### The statement -/

theorem exec_drainCompletion (s : State) : exec .drainCompletion s = .next (drainTest (beginEvent s)) := rfl

theorem removeHead_nothingWaits {s : State} (h : NothingWaits s) : removeHead s = { s with queue := s.queue.tail } :=
  spacePass_nothing (dropHead s) h.1 h.2

/-- Settles O3: a quiet end from the acceptances that find no request, the acceptances in Serving from their fold, and the
last clause because an acceptance appends to the outputs that stand. -/
theorem eventEndsQuietly : Obligations.EventEndsQuietly := by
  refine ⟨fun s hq => ⟨finishEvent_serving s hq.1 hq.2, fun hw => ?_⟩, fun s hm => finishEvent_ofServing s hm,
    fun s => ⟨fun hm => ?_, finishEvent_loading s⟩, fun c p r s hc hidle hm hpreset => ?_⟩
  · rw [removeHead_nothingWaits hw]
    exact finishEvent_serving _ hq.1 hq.2
  · rw [exec_drainCompletion, ← finishEvent_notServing]
    · rfl
    · exact fun h => Mode.noConfusion (hm.symm.trans h)
  · have hcan : canAccept p (beginEvent s) = true := (canAccept_iff p _).mpr ⟨hidle, hm, hpreset⟩
    refine ⟨accept p r ((beginEvent s).setLink p none), ?_, ?_⟩
    · rw [exec_of_requestOf hc, present, if_pos hcan]
    · have hkeep := accept_keepsOutputs p r s.outs ((beginEvent s).setLink p none)
      simpa [State.prepend, beginEvent, State.setLink] using hkeep

end Sys2Proof.Machine
end

section
/-! The drain's end and the PRESET lines (R127, R130, R176). -/

namespace Sys2Proof.Machine

open Sys2Proof.Safety

/-- Settles O49: the drain's test on the state of a new event. -/
theorem drainCompletionEntersLoading : Obligations.DrainCompletionEntersLoading := by
  intro s
  rw [exec_drainCompletion]
  constructor
  · intro hm hports hqueue hstaging hslots hprefetch
    have hcomplete : drainComplete (beginEvent s) = true :=
      (drainComplete_iff (beginEvent s) hm).mpr ⟨⟨hports, hqueue, hstaging, hslots⟩, hprefetch⟩
    rw [drainTest_draining (beginEvent s) hm, if_pos hcomplete]
    rfl
  · intro h
    by_cases hm : s.mode = .draining
    · have hcomplete : ¬ drainComplete (beginEvent s) = true := by
        rw [drainComplete_iff (beginEvent s) hm]
        rintro ⟨⟨hports, hqueue, hstaging, hslots⟩, -⟩
        rcases h with h | ⟨p, hne, hne'⟩ | h | ⟨p, hp⟩ | ⟨i, hi⟩
        · exact h hm
        · exact (hports p).elim hne hne'
        · exact h hqueue
        · exact hp (hstaging p)
        · exact hi (hslots i)
      rw [drainTest_draining (beginEvent s) hm, if_neg hcomplete]
      rfl
    · rw [drainTest_notDraining (beginEvent s) hm]
      rfl

/-! ### PRESET_RELEASE -/

theorem exec_presetRelease (p : Port) (s : State) :
    exec (.presetRelease p) s =
      if s.presetLines.get p then .next (finishEvent (releasePreset p (beginEvent s))) else .next (beginEvent s) := rfl

theorem releasePreset_eq (p : Port) (s : State) :
    releasePreset p s =
      { s with
        ports := if s.ports.get p = .reset then s.ports.set p .idle else s.ports
        presetLines := s.presetLines.set p false } := by
  unfold releasePreset
  split <;> rfl

theorem exec_presetRelease_asserted {p : Port} {s : State} (h : s.presetLines.get p = true) :
    exec (.presetRelease p) s =
      .next (finishEvent
        { s with
          outs := []
          ports := if s.ports.get p = .reset then s.ports.set p .idle else s.ports
          presetLines := s.presetLines.set p false }) := by
  rw [exec_presetRelease, if_pos h, releasePreset_eq]
  rfl

theorem drainTest_links (s : State) : (drainTest s).links = s.links := by
  unfold drainTest
  split <;> rfl

/-- The state a port in Reset leaves at the release of its line (R130). -/
def portReleased (p : Port) (s : State) : State :=
  { s with outs := [], ports := s.ports.set p .idle, presetLines := s.presetLines.set p false }

theorem exec_presetRelease_inReset {p : Port} {s : State} (h : s.presetLines.get p = true)
    (hreset : s.ports.get p = .reset) : exec (.presetRelease p) s = .next (finishEvent (portReleased p s)) := by
  rw [exec_presetRelease_asserted h, if_pos hreset]
  rfl

/-- The release of one port makes no other port ready. -/
theorem readyToAccept_portReleased {p q : Port} (hq : q ≠ p) (s : State) :
    ReadyToAccept q (portReleased p s) ↔ ReadyToAccept q s := by
  simp only [portReleased, ReadyToAccept, PerPort.get_set_other _ _ hq]

/-- Settles O51: the port is Idle, and the event ends as its mode lets it. -/
theorem presetReleaseMakesThePortIdle : Obligations.PresetReleaseMakesThePortIdle := by
  refine ⟨fun p s hline hreset hm hothers => ?_, fun p s hline => exec_presetRelease_asserted hline, ?_⟩
  · rw [exec_presetRelease_inReset hline hreset, finishEvent_onlyPort (s := portReleased p s) p hm fun q hq =>
      mt (readyToAccept_portReleased hq s).mp (hothers q hq)]
    refine ⟨fun hlink => ?_, fun r hlink => ?_⟩
    · rw [acceptFromLink_of_notReady (s := portReleased p s) fun h => h.1 hlink]
      rfl
    · have hlink' : (portReleased p s).links.get p = some r := hlink
      have hready : ReadyToAccept p (portReleased p s) :=
        ⟨by simp [hlink'], PerPort.get_set_same .., hm, PerPort.get_set_same ..⟩
      rw [acceptFromLink_of_ready rfl hready, acceptLinked, hlink']
      rfl
  · rintro p s t rfl
    refine ⟨fun hline hreset hm => ?_, fun hline hreset hm => ?_, fun hline hreset hm => ?_, fun hline => ?_⟩
    · rw [exec_presetRelease_inReset hline hreset, finishEvent_loading (portReleased p s) hm]
      rfl
    · have hnot : (portReleased p s).mode ≠ .serving := fun h => Mode.noConfusion (hm.symm.trans h)
      rw [exec_presetRelease_inReset hline hreset, finishEvent_notServing _ hnot]
      exact ⟨_, rfl, rfl, drainTest_links _⟩
    · rw [exec_presetRelease_asserted hline, if_neg hreset]
      exact congrArg _ (finishEvent_loading { s with outs := [], presetLines := s.presetLines.set p false } hm)
    · rw [exec_presetRelease, if_neg (by simp [hline])]
      rfl

/-! ### PRESET_ASSERT -/

theorem exec_presetAssert {p : Port} {s : State} (hline : s.presetLines.get p = false) (hr : s.resetLine = false) :
    exec (.presetAssert p) s = .next (finishEvent (assertPreset p (keepOrWithdraw p (beginEvent s)))) := by
  exact (if_neg (by simp [hline])).trans (if_neg (by simp [hr]))

/-- The port's claim state is given up: its status is None, and no entry names it as owner (R46). -/
theorem giveUpClaim_status (p : Port) (s : State) : (giveUpClaim p s).claimStatus = s.claimStatus.set p .none := by
  unfold giveUpClaim
  split <;> rfl

theorem giveUpClaim_table (p : Port) {s : State} (hs : ClaimLaw s) (c : Ix4) :
    (giveUpClaim p s).claimTable.get c =
      match s.claimTable.get c with
      | some cl => if cl.owner = p then none else some cl
      | none => none := by
  have howns : ∀ cl, s.claimTable.get c = some cl → (cl.owner = p ↔ s.claimStatus.get p = .held c) := by
    intro cl hc
    refine ⟨fun h => h ▸ hs.1 c cl hc, fun h => ?_⟩
    obtain ⟨cl', hc', howner⟩ := hs.2 p c h
    rw [hc] at hc'
    exact Option.some.inj hc' ▸ howner
  unfold giveUpClaim
  split
  next c0 hheld =>
    rw [State.setStatus_claimTable, State.setClaim_claimTable, Quad.get_set]
    cases hc : s.claimTable.get c with
    | none => exact ite_self _
    | some cl =>
      refine if_congr ?_ rfl rfl
      rw [howns cl hc, hheld, ClaimStatus.held.injEq]
      exact eq_comm
  next hnot =>
    rw [State.setStatus_claimTable]
    cases hc : s.claimTable.get c with
    | none => rfl
    | some cl => exact (if_neg fun h => hnot c ((howns cl hc).mp h)).symm

theorem clearClaim_status (p : Port) (s : State) : (clearClaim p s).claimStatus = s.claimStatus.set p .none :=
  giveUpClaim_status p s

theorem clearClaim_table (p : Port) {s : State} (hs : ClaimLaw s) (c : Ix4) :
    (clearClaim p s).claimTable.get c =
      match s.claimTable.get c with
      | some cl => if cl.owner = p then none else some cl
      | none => none :=
  giveUpClaim_table p hs c

theorem discardFor_get (p : Port) (sl : Slot) :
    sl.discardFor p =
      { sl with
        occupant :=
          match sl.occupant with
          | some o =>
            some ⟨match o.owner with
              | .fill q e => if q = p then .discarded else .fill q e
              | .pass q => if q = p then .discarded else .pass q
              | x => x, o.req, o.gen, o.timer⟩
          | none => none } := by
  obtain ⟨occupant, nextGen, stale⟩ := sl
  cases occupant with
  | none => rfl
  | some o =>
    obtain ⟨owner, req, gen, timer⟩ := o
    cases owner with
    | fill q e => by_cases hq : q = p <;> simp [Slot.discardFor, hq]
    | pass q => by_cases hq : q = p <;> simp [Slot.discardFor, hq]
    | _ => rfl

/-- The link of the port keeps its request or loses it, by the master's choice (R116). -/
theorem keepOrWithdraw_some {p : Port} {s : State} (h : s.links.get p ≠ none) :
    ((keepOrWithdraw p s).links = s.links ∨ (keepOrWithdraw p s).links = s.links.set p none)
      ∧ (keepOrWithdraw p s).freeCount = s.freeCount + 1 := by
  obtain ⟨r, hr⟩ := Option.ne_none_iff_exists'.mp h
  simp only [keepOrWithdraw, hr, and_true]
  split
  · exact .inl (by rw [← hr, PerPort.set_get_same])
  · exact .inr rfl

theorem assertPreset_eq (p : Port) (s : State) :
    assertPreset p s = if s.waiting.head? = some p then spacePass (resetPort p s) else resetPort p s := rfl

theorem resetPort_claims (p : Port) (s : State) :
    (resetPort p s).claimStatus = s.claimStatus.set p .none
      ∧ (ClaimLaw s → ∀ c, (resetPort p s).claimTable.get c =
        match s.claimTable.get c with
        | some cl => if cl.owner = p then none else some cl
        | none => none) := by
  unfold resetPort
  refine ⟨clearClaim_status p _, fun hs c => ?_⟩
  exact clearClaim_table p (by exact claimLaw_congr (s := s) rfl rfl hs) c

/-- With no request on a link, PRESET_ASSERT leaves a quiet device quiet. -/
theorem finishEvent_assertPreset {p : Port} {s : State} (hq : Quiet s) :
    finishEvent (assertPreset p s) = assertPreset p s := by
  have hside : ∀ u : State, SameLinkSide (resetPort p s) u → finishEvent u = u := by
    rintro u ⟨hlinks, hmode, -⟩
    refine finishEvent_serving u (hmode.trans ?_) fun q => ?_
    · rw [resetPort_frame]
      exact hq.1
    · rw [hlinks, resetPort_frame]
      exact hq.2 q
  rw [assertPreset_eq]
  split
  · exact hside _ (linkSide_spacePass _)
  · exact hside _ (SameLinkSide.refl _)

/-- Settles O50: the port's reset on the state in which the master has kept or withdrawn its request. -/
theorem presetAssertResetsOnePort : Obligations.PresetAssertResetsOnePort := by
  refine ⟨fun p s hline hr hs => ?_, fun p s => ⟨fun hline hr => ?_, fun hline => ?_⟩⟩
  · have hframe := keepOrWithdraw_frame p (beginEvent s)
    have hnone := keepOrWithdraw_none p (beginEvent s)
    have hsome := keepOrWithdraw_some (p := p) (s := beginEvent s)
    have hexec := exec_presetAssert hline hr
    have hquiet := finishEvent_assertPreset (p := p) (s := keepOrWithdraw p (beginEvent s))
    generalize keepOrWithdraw p (beginEvent s) = u at hframe hnone hsome hexec hquiet
    have hwaiting : u.waiting = s.waiting := by rw [hframe]; rfl
    rw [assertPreset_eq, hwaiting] at hexec hquiet
    obtain ⟨hstatus, htable⟩ := resetPort_claims p u
    refine ⟨resetPort p u, hexec, fun hq => ?_, ?_, fun c => ?_, fun i => ?_, fun hlink => ?_, fun hlink => ?_⟩
    · rw [hexec, hquiet]
      rw [hnone (hq.2 p)]
      exact hq
    · rw [resetPort_frame, hstatus, hframe]
      rfl
    · rw [htable (by rw [hframe]; exact hs), hframe]
      rfl
    · rw [resetPort_frame, Quad.get_map, discardFor_get, hframe]
      rfl
    · rw [resetPort_frame, hnone hlink]
      exact ⟨rfl, rfl⟩
    · rw [resetPort_frame]
      exact hsome hlink
  · exact (if_neg (by simp [hline])).trans (if_pos hr)
  · exact if_pos hline

end Sys2Proof.Machine
end

section
/-! The bytes of a line, bit by bit: masks, writes, merges and reads at their positions (R2, R6, R117), and the bytes of
records and words (R74, R77, R153, R157, R179). -/

namespace Sys2Proof.Machine

open Sys2Proof.Safety

/-! ### Bits and bytes -/

theorem byteAt_getLsbD (d : LineData) (i j : Nat) (hj : j < 8) : (byteAt d i).getLsbD j = d.getLsbD (8 * i + j) := by
  rw [byteAt, BitVec.getLsbD_extractLsb', decide_eq_true hj, Bool.true_and]

/-- A byte of a line is what its eight bits are. -/
theorem byteAt_eq {d : LineData} {i : Nat} {b : Byte} (h : ∀ j, j < 8 → d.getLsbD (8 * i + j) = b.getLsbD j) :
    byteAt d i = b :=
  BitVec.eq_of_getLsbD_eq fun j hj => (byteAt_getLsbD d i j hj).trans (h j hj)

/-- The positions off to off + n − 1, for a span of any length. -/
theorem spanMask_getLsbD (off n i : Nat) (hi : i < 32) :
    (spanMask off n).getLsbD i = decide (off ≤ i ∧ i < off + n) := by
  rw [spanMask, BitVec.getLsbD_shiftLeft, BitVec.getLsbD_ofNat, Nat.testBit_two_pow_sub_one, Bool.eq_iff_iff]
  simp only [Bool.and_eq_true, decide_eq_true_eq, Bool.not_eq_true', decide_eq_false_iff_not]
  omega

/-- A value of w bits placed at byte off of a line: bit k. -/
theorem shifted_getLsbD {w : Nat} (x : BitVec w) (off k : Nat) (hk : k < 256) :
    (x.zeroExtend 256 <<< (8 * off)).getLsbD k = (decide (8 * off ≤ k) && x.getLsbD (k - 8 * off)) := by
  have hk' : k - 8 * off < 256 := by omega
  rw [BitVec.getLsbD_shiftLeft, BitVec.zeroExtend_eq_setWidth, BitVec.getLsbD_setWidth]
  have hle : (!decide (k < 8 * off)) = decide (8 * off ≤ k) := by
    rw [← decide_not]
    exact decide_eq_decide.mpr Nat.not_lt
  rw [decide_eq_true hk, decide_eq_true hk', hle, Bool.true_and, Bool.true_and]

/-- The n bytes of a value stand at positions off to off + n − 1 of the line, and every other byte is 0. -/
theorem byteAt_shifted {w : Nat} (x : BitVec w) (n : Nat) (hw : w = 8 * n) (off i : Nat) (hi : i < 32) :
    byteAt (x.zeroExtend 256 <<< (8 * off)) i =
      if off ≤ i ∧ i < off + n then x.extractLsb' (8 * (i - off)) 8 else 0 := by
  refine byteAt_eq fun j hj => ?_
  rw [shifted_getLsbD x off _ (by omega)]
  split
  next h =>
    have hsub : 8 * i + j - 8 * off = 8 * (i - off) + j := by omega
    rw [BitVec.getLsbD_extractLsb', decide_eq_true hj, hsub, decide_eq_true (by omega : 8 * off ≤ 8 * i + j)]
  next h =>
    rw [show (0 : Byte).getLsbD j = false from BitVec.getLsbD_zero, Bool.and_eq_false_iff, decide_eq_false_iff_not]
    by_cases hlo : off ≤ i
    · exact .inr (BitVec.getLsbD_of_ge x _ (by omega))
    · exact .inl (by omega)

/-! ### Writes, merges and reads -/

/-- The bytes of a write at their positions, and no other (R2). -/
theorem byteAt_placeBytes (d : LineData) (off n i : Nat) (hi : i < 32) :
    byteAt (placeBytes d off n) i = if off ≤ i ∧ i < off + n then byteAt d (i - off) else 0 := by
  refine byteAt_eq fun j hj => ?_
  have hk : 8 * i + j < 256 := by omega
  have hk' : 8 * i + j - 8 * off < 256 := by omega
  rw [placeBytes, BitVec.getLsbD_shiftLeft, BitVec.getLsbD_and, BitVec.getLsbD_ofNat, Nat.testBit_two_pow_sub_one,
    decide_eq_true hk, decide_eq_true hk', Bool.true_and, Bool.true_and]
  split
  next h =>
    have hsub : 8 * i + j - 8 * off = 8 * (i - off) + j := by omega
    rw [byteAt_getLsbD _ _ _ hj, hsub, decide_eq_false (by omega : ¬ 8 * i + j < 8 * off),
      decide_eq_true (by omega : 8 * (i - off) + j < 8 * n), Bool.and_true, Bool.not_false, Bool.true_and]
  next h =>
    rw [show (0 : Byte).getLsbD j = false from BitVec.getLsbD_zero]
    by_cases hlo : 8 * i + j < 8 * off
    · simp [hlo]
    · have hn : ¬ 8 * i + j - 8 * off < 8 * n := by omega
      simp [hn]

/-- The bits of the mask's first n positions, spread over their bytes. -/
theorem expandMask_firstBytes (m : Mask) (n k : Nat) (hn : n ≤ 32) (hk : k < 256) :
    ((List.range n).foldl (fun acc i => if m.getLsbD i then acc ||| (0xFF#256 <<< (8 * i)) else acc) 0).getLsbD k =
      (decide (k / 8 < n) && m.getLsbD (k / 8)) := by
  induction n with
  | zero => simp
  | succ n ih =>
    have hbyte : (0xFF#256 <<< (8 * n)).getLsbD k = decide (k / 8 = n) := by
      have h255 : (0xFF#256) = BitVec.ofNat 256 (2 ^ 8 - 1) := rfl
      rw [h255, BitVec.getLsbD_shiftLeft, BitVec.getLsbD_ofNat, Nat.testBit_two_pow_sub_one, Bool.eq_iff_iff]
      simp only [Bool.and_eq_true, decide_eq_true_eq, Bool.not_eq_true', decide_eq_false_iff_not]
      omega
    rw [List.range_succ, List.foldl_append, List.foldl_cons, List.foldl_nil]
    have hfirst := ih (by omega)
    generalize (List.range n).foldl (fun acc i => if m.getLsbD i then acc ||| (0xFF#256 <<< (8 * i)) else acc) 0 = acc
      at hfirst ⊢
    have hlt : decide (k / 8 < n + 1) = (decide (k / 8 < n) || decide (k / 8 = n)) := by
      rw [← Bool.decide_or]
      exact decide_eq_decide.mpr Nat.lt_succ_iff_lt_or_eq
    rw [hlt]
    by_cases hlast : k / 8 = n
    · cases hm : m.getLsbD n <;> simp [hm, hfirst, hbyte, hlast]
    · cases hm : m.getLsbD n <;> simp [hfirst, hbyte, hlast]

theorem expandMask_getLsbD (m : Mask) (k : Nat) (hk : k < 256) : (expandMask m).getLsbD k = m.getLsbD (k / 8) := by
  rw [expandMask, expandMask_firstBytes m 32 k le_rfl hk, decide_eq_true (by omega), Bool.true_and]

/-- New data replaces old at the mask's positions (R6). -/
theorem byteAt_mergeBytes (m : Mask) (new old : LineData) (i : Nat) (hi : i < 32) :
    byteAt (mergeBytes m new old) i = if m.getLsbD i then byteAt new i else byteAt old i := by
  refine byteAt_eq fun j hj => ?_
  have hk : 8 * i + j < 256 := by omega
  have hdiv : (8 * i + j) / 8 = i := by omega
  rw [mergeBytes, BitVec.getLsbD_or, BitVec.getLsbD_and, BitVec.getLsbD_and, BitVec.getLsbD_not,
    expandMask_getLsbD m _ hk, hdiv, decide_eq_true hk]
  cases m.getLsbD i <;> simp [byteAt_getLsbD _ _ _ hj]

/-- Settles O24: each clause is the lemma of its function, for spans of every length. -/
theorem writeBytesLandAtTheirPositions : Obligations.WriteBytesLandAtTheirPositions := by
  refine ⟨fun a size d i _ hi => ⟨spanMask_getLsbD _ _ i hi, byteAt_placeBytes d _ _ i hi⟩, byteAt_mergeBytes,
    fun d off n i => ⟨rfl, ?_, fun hi => ?_⟩, fun a => ⟨lineOf_toNat a, rfl⟩, fun _ => rfl, rfl, rfl, rfl, rfl⟩
  · simp [bytesFrom]
  · simp [bytesFrom, hi]

/-! ### The bytes of records -/

/-- Two fields of a line put together: the low one, and the high one shifted past it. -/
theorem setWidth_append {v w : Nat} (hi : BitVec v) (lo : BitVec w) :
    (hi ++ lo).setWidth 256 = lo.setWidth 256 ||| (hi.setWidth 256 <<< w) := by
  refine BitVec.eq_of_getLsbD_eq fun k hk => ?_
  have hk' : k - w < 256 := by omega
  rw [BitVec.getLsbD_setWidth, BitVec.getLsbD_append, BitVec.getLsbD_or, BitVec.getLsbD_setWidth, BitVec.getLsbD_shiftLeft,
    BitVec.getLsbD_setWidth]
  by_cases h : k < w
  · simp [hk, h]
  · simp [hk, hk', h, BitVec.getLsbD_of_ge lo k (by omega)]

theorem extractLsb'_setWidth {w start len : Nat} (x : BitVec w) (h : start + len ≤ 256) :
    (x.setWidth 256).extractLsb' start len = x.extractLsb' start len := by
  refine BitVec.eq_of_getLsbD_eq fun k hk => ?_
  rw [BitVec.getLsbD_extractLsb', BitVec.getLsbD_extractLsb', BitVec.getLsbD_setWidth,
    decide_eq_true (by omega : start + k < 256), Bool.true_and]

theorem OutcomeCode.value_byte (c : OutcomeCode) : BitVec.ofNat 256 c.value = (BitVec.ofNat 8 c.value).setWidth 256 := by
  cases c <;> rfl

theorem Size.bytes_byte (n : Size) : BitVec.ofNat 256 n.bytes = (BitVec.ofNat 8 n.bytes).setWidth 256 := by
  cases n <;> rfl

/-- An Outcome's record bytes are its four fields, the sequence lowest (R179). -/
theorem outcomeData_eq (o : OutcomeContent) :
    outcomeData o =
      (o.addr ++ (BitVec.ofNat 8 o.size.bytes ++ (BitVec.ofNat 8 o.code.value ++ o.sequence))).setWidth 256 := by
  rw [setWidth_append, setWidth_append, setWidth_append, ← OutcomeCode.value_byte, ← Size.bytes_byte]
  rfl

/-- A field above a width is 0. -/
theorem extractLsb'_of_ge {w start len : Nat} (x : BitVec w) (h : w ≤ start) : x.extractLsb' start len = 0#len := by
  refine BitVec.eq_of_getLsbD_eq fun k _ => ?_
  rw [BitVec.getLsbD_extractLsb', BitVec.getLsbD_of_ge x _ (by omega), Bool.and_false, BitVec.getLsbD_zero]

theorem outcomeData_fields (o : OutcomeContent) :
    (outcomeData o).extractLsb' 0 16 = o.sequence
    ∧ byteAt (outcomeData o) 2 = BitVec.ofNat 8 o.code.value
    ∧ byteAt (outcomeData o) 3 = BitVec.ofNat 8 o.size.bytes
    ∧ (outcomeData o).extractLsb' 32 28 = o.addr
    ∧ (outcomeData o).extractLsb' 60 196 = 0 := by
  simp only [byteAt, outcomeData_eq]
  refine ⟨?_, ?_, ?_, ?_, ?_⟩ <;> rw [extractLsb'_setWidth _ (by omega)]
  · rw [BitVec.extractLsb'_append_eq_of_add_le (by omega), BitVec.extractLsb'_append_eq_of_add_le (by omega),
      BitVec.extractLsb'_append_eq_right]
  · rw [BitVec.extractLsb'_append_eq_of_add_le (by omega), BitVec.extractLsb'_append_eq_of_add_le (by omega)]
    exact BitVec.extractLsb'_append_eq_left
  · rw [BitVec.extractLsb'_append_eq_of_add_le (by omega)]
    exact BitVec.extractLsb'_append_eq_left
  · exact BitVec.extractLsb'_append_eq_left
  · exact extractLsb'_of_ge _ (by omega)

/-- A FaultPost's record bytes, field by field, with the first fault kept exactly when its kind does not read 0 (R157). -/
theorem faultMerge_fields (line : LineData) (f : FaultContent) :
    (faultMerge line f).extractLsb' 0 8 = byteAt line 8 ||| f.flags
    ∧ (faultMerge line f).extractLsb' 8 8 = BitVec.ofNat 8 (min 255 ((byteAt line 9).toNat + f.count))
    ∧ (faultMerge line f).extractLsb' 24 8 = 0
    ∧ (faultMerge line f).extractLsb' 16 8 =
      (if byteAt line 10 ≠ 0 then byteAt line 10 else BitVec.ofNat 8 f.firstKind.value)
    ∧ (faultMerge line f).extractLsb' 32 32 =
      (if byteAt line 10 ≠ 0 then wordAt line 12 else f.firstAddr.zeroExtend 32) := by
  simp only [faultMerge]
  refine ⟨?_, ?_, ?_, ?_, ?_⟩
  · rw [BitVec.extractLsb'_append_eq_of_add_le (by omega), BitVec.extractLsb'_append_eq_of_add_le (by omega),
      BitVec.extractLsb'_append_eq_of_add_le (by omega), BitVec.extractLsb'_append_eq_right]
  · rw [BitVec.extractLsb'_append_eq_of_add_le (by omega), BitVec.extractLsb'_append_eq_of_add_le (by omega),
      BitVec.extractLsb'_append_eq_of_add_le (by omega), BitVec.extractLsb'_append_eq_left]
    rfl
  · rw [BitVec.extractLsb'_append_eq_of_add_le (by omega)]
    exact BitVec.extractLsb'_append_eq_left
  · rw [BitVec.extractLsb'_append_eq_of_add_le (by omega), BitVec.extractLsb'_append_eq_of_add_le (by omega)]
    refine BitVec.extractLsb'_append_eq_left.trans ?_
    simp only [decide_eq_true_eq]
  · refine BitVec.extractLsb'_append_eq_left.trans ?_
    simp only [decide_eq_true_eq]

/-- Settles O38: the fields of the two record contents, their places, and the codes by their lists. -/
theorem recordBytesAreWrittenByField : Obligations.RecordBytesAreWrittenByField := by
  refine ⟨fun o => ?_, fun line f => ?_, fun content i hi => ?_, rfl, rfl, fun _ => ⟨rfl, rfl⟩, fun _ => rfl, fun _ => rfl,
    rfl, rfl⟩
  · obtain ⟨hseq, hcode, hsize, haddr, htop⟩ := outcomeData_fields o
    refine ⟨hseq, hcode, hsize, haddr, htop, fun i => ?_⟩
    by_cases hi : i < 32
    · rw [outcomeMask, spanMask_getLsbD 0 8 i hi]
      simp
    · rw [BitVec.getLsbD_of_ge _ _ (by omega), decide_eq_false (by omega)]
  · obtain ⟨hflags, hcount, hnotify, hkind, haddr⟩ := faultMerge_fields line f
    refine ⟨hflags, hcount, hnotify, fun h => ?_, fun h => ?_⟩
    · rw [hkind, haddr, if_neg (not_not.mpr h), if_neg (not_not.mpr h)]
      exact ⟨rfl, rfl⟩
    · rw [hkind, haddr, if_pos h, if_pos h]
      exact ⟨rfl, rfl⟩
  · refine ⟨byteAt_shifted content 8 rfl 8 i hi, spanMask_getLsbD 8 8 i hi, ?_⟩
    rw [spanMask_getLsbD 0 8 i hi]
    simp

/-! ### The bytes of words -/

/-- A word's four bytes at their positions (R74). -/
theorem byteAt_wordLineData (w : Word) (off i : Nat) (hi : i < 32) :
    byteAt (wordLineData w off) i = if off ≤ i ∧ i < off + 4 then w.extractLsb' (8 * (i - off)) 8 else 0 :=
  byteAt_shifted w 4 rfl off i hi

theorem wordBytes_get (w : Word) (j : Nat) (hj : j < 4) : (wordBytes w)[j]? = some (w.extractLsb' (8 * j) 8) := by
  match j, hj with
  | 0, _ => rfl
  | 1, _ => rfl
  | 2, _ => rfl
  | 3, _ => rfl

/-! ### Locked updates (R71, R72) -/

/-- The sum brought into the range of a word, for a sum within one range of it. -/
theorem addWord_fst_toNat (old operand : Word) :
    ((addWord old operand).1.toNat : Int) = ((old.toNat : Int) + operand.toInt) % 2 ^ 32 := by
  have hnonneg : 0 ≤ ((old.toNat : Int) + operand.toInt) % 2 ^ 32 := Int.emod_nonneg _ (by decide)
  rw [addWord, BitVec.toNat_ofInt]
  exact Int.toNat_of_nonneg hnonneg

theorem addWord_snd (old operand : Word) :
    (addWord old operand).2 = true ↔ (old.toNat : Int) + operand.toInt < 0 ∨ 2 ^ 32 ≤ (old.toNat : Int) + operand.toInt :=
  decide_eq_true_iff

/-- Settles O35: the sum modulo 2^32 in its three ranges, and the count at its wrap. -/
theorem lockedUpdateArithmetic : Obligations.LockedUpdateArithmetic := by
  refine ⟨fun old operand => ?_, fun old => ⟨fun h => ?_, fun h => ?_⟩⟩
  · have hold : old.toNat < 2 ^ 32 := old.isLt
    have hlo : -2 ^ 31 ≤ operand.toInt := BitVec.le_toInt operand
    have hhi : operand.toInt < 2 ^ 31 := BitVec.toInt_lt
    rw [addWord_fst_toNat]
    refine ⟨fun h => ⟨?_, ?_⟩, fun h => ⟨?_, ?_⟩, fun h => ⟨?_, ?_⟩⟩
    · exact Int.emod_eq_of_lt h.1 (by omega)
    · rw [← Bool.not_eq_true, addWord_snd]
      omega
    · omega
    · rw [addWord_snd]
      omega
    · omega
    · rw [addWord_snd]
      omega
  · refine ⟨?_, decide_eq_false fun heq => ?_⟩
    · rw [countWord, BitVec.toNat_add]
      exact Nat.mod_eq_of_lt (by simp; omega)
    · rw [heq] at h
      exact absurd h (by decide)
  · obtain rfl : old = 0xFFFFFFFF#32 := BitVec.eq_of_toNat_eq h
    exact ⟨rfl, rfl⟩

end Sys2Proof.Machine
end

section
/-! The nine requests at an accepting port, and what an arming and a read do (R29, R53 to R55, R62, R90). -/

namespace Sys2Proof.Machine

open Sys2Proof.Safety

/-! ### The first place of a table that passes a test -/

/-- A search finds c exactly when c passes and no place before it does. -/
theorem find?_eq_some_iff_takeWhile {α : Type} [DecidableEq α] (f : α → Bool) (c : α) (l : List α) (hc : c ∈ l) :
    l.find? f = some c ↔ f c = true ∧ ∀ x ∈ l.takeWhile fun x => decide (x ≠ c), f x = false := by
  induction l with
  | nil => cases hc
  | cons a l ih =>
    by_cases hac : a = c
    · subst hac
      cases hf : f a with
      | true => simp [hf]
      | false =>
        refine iff_of_false (fun h => ?_) (fun h => Bool.false_ne_true (h.1))
        have := List.find?_some h
        rw [hf] at this
        cases this
    · have hmem : c ∈ l := (List.mem_cons.mp hc).resolve_left (fun h => hac h.symm)
      rw [List.takeWhile_cons_of_pos (by simpa using hac), List.forall_mem_cons]
      cases hf : f a with
      | true => simp [hf, hac]
      | false => simp [hf, ih hmem]

theorem find?_ix4 (f : Ix4 → Bool) (c : Ix4) :
    Ix4.all.find? f = some c ↔ f c = true ∧ ∀ x ∈ Ix4.all.takeWhile fun x => decide (x ≠ c), f x = false :=
  find?_eq_some_iff_takeWhile f c Ix4.all (Ix4.mem_all c)

theorem find?_ix4_none (f : Ix4 → Bool) : Ix4.all.find? f = none ↔ ∀ c, f c = false := by
  simp [List.find?_eq_none]

/-! ### The requests of the commands -/

@[simp] theorem memAddrOf_upAddrOf (sel : BitVec 4) (a : Addr) : memAddrOf (upAddrOf sel a) = a :=
  BitVec.extractLsb'_append_eq_right

@[simp] theorem readRequest_addr (sel : BitVec 4) (a : Addr) (n : Size) : (readRequest sel a n).addr = a :=
  memAddrOf_upAddrOf sel a

@[simp] theorem writeRequest_addr (sel : BitVec 4) (a : Addr) (n : Size) (d : LineData) :
    (writeRequest sel a n d).addr = a :=
  memAddrOf_upAddrOf sel a

@[simp] theorem readRequest_view (sel : BitVec 4) (a : Addr) (n : Size) : (readRequest sel a n).view = viewOf sel :=
  congrArg viewOf (selectorOf_upAddrOf sel a)

@[simp] theorem writeRequest_view (sel : BitVec 4) (a : Addr) (n : Size) (d : LineData) :
    (writeRequest sel a n d).view = viewOf sel :=
  congrArg viewOf (selectorOf_upAddrOf sel a)

@[simp] theorem viewOf_selPlain : viewOf selPlain = .plain := rfl
@[simp] theorem viewOf_selDirect : viewOf selDirect = .direct := rfl
@[simp] theorem viewOf_selClaim : viewOf selClaim = .claim := rfl
@[simp] theorem viewOf_selTally : viewOf selTally = .tally := rfl

@[simp] theorem readRequest_op (sel : BitVec 4) (a : Addr) (n : Size) : (readRequest sel a n).op = .read := rfl
@[simp] theorem writeRequest_op (sel : BitVec 4) (a : Addr) (n : Size) (d : LineData) :
    (writeRequest sel a n d).op = .write := rfl

/-- A command whose request passes the checks at an accepting port sends it down its path, and does nothing else. -/
theorem exec_of_passed {c : Instr} {p : Port} {r : Request} {s : State} {v : Verdict} (hc : requestOf c = some (p, r))
    (h : Accepting p s) (hcheck : accessCheck (windowTable s.config) p r = .pass v) :
    exec c s = .next (acceptPassed p r v (beginEvent s)) := by
  rw [exec_of_accepting hc h, accept_pass p r (beginEvent s) v hcheck]

section
variable {p : Port} {r : Request} {v : Verdict} {s : State}

theorem acceptPassed_plainRead (hv : r.view = .plain) (ho : r.op = .read) : acceptPassed p r v s = readPath p r v s := by
  simp only [acceptPassed, hv, ho]

theorem acceptPassed_directRead (hv : r.view = .direct) (ho : r.op = .read) :
    acceptPassed p r v s = offerPassRead p r v s := by
  simp only [acceptPassed, hv, ho]

theorem acceptPassed_claimRead (hv : r.view = .claim) (ho : r.op = .read) :
    acceptPassed p r v s = readPath p r v (armClaim p r.line s) := by
  simp only [acceptPassed, hv, ho]

/-- Every request that writes memory takes one path (R5). -/
theorem acceptPassed_write (hu : r.usesQueue = true) : acceptPassed p r v s = takeWrite p r v s := by
  unfold Request.usesQueue at hu
  unfold acceptPassed
  cases hv : r.view <;> cases ho : r.op <;> simp [hv, ho] at hu ⊢

end

/-! ### Arming (R29) -/

theorem lowestFreeClaim_iff (t : Quad (Option Claim)) (c : Ix4) :
    lowestFreeClaim t = some c ↔
      t.get c = none ∧ ∀ x ∈ Ix4.all.takeWhile fun x => decide (x ≠ c), t.get x ≠ none := by
  simp only [lowestFreeClaim, find?_ix4, Option.isNone_iff_eq_none, Option.isNone_eq_false_iff, Option.isSome_iff_ne_none]

theorem armClaim_held {p : Port} {s : State} {c : Ix4} (line : Addr) (h : s.claimStatus.get p = .held c) :
    armClaim p line s =
      { s.setClaim c (some (armedClaim s p line)) with armingCount := s.armingCount + 1 } := by
  simp only [armClaim, h]

theorem armClaim_notHeld {p : Port} {s : State} (line : Addr) (h : (s.claimStatus.get p).notHeld) :
    armClaim p line s =
      match lowestFreeClaim s.claimTable with
      | some c =>
        { (s.setClaim c (some (armedClaim s p line))).setStatus p (.held c) with armingCount := s.armingCount + 1 }
      | none => s.setStatus p (.lapsed .crowded line) := by
  unfold armClaim
  split
  next c hc => exact absurd hc (h c)
  next => rfl

/-- Settles O13: the three rows are the arming's three branches. -/
theorem armingFollowsStatus : Obligations.ArmingFollowsStatus := by
  intro p line s
  refine ⟨fun c h => armClaim_held line h, fun c h hc hbefore => ?_, fun h hfull => ?_⟩
  · rw [armClaim_notHeld line h, (lowestFreeClaim_iff _ c).mpr ⟨hc, hbefore⟩]
    rfl
  · have hnone : lowestFreeClaim s.claimTable = none := by
      simp only [lowestFreeClaim, find?_ix4_none, Option.isNone_eq_false_iff, Option.isSome_iff_ne_none]
      exact hfull
    rw [armClaim_notHeld line h, hnone]
    rfl

/-! ### Prefetch (R62, R63) -/

theorem hasPrefetch_false_iff (ls : LineSet) :
    ls.hasPrefetch = false ↔ ∀ e l f, ls.entries.get e = .filling l f → f.cls ≠ .prefetch := by
  simp only [LineSet.hasPrefetch, List.any_eq_false, Ix4.mem_all, true_implies]
  refine forall_congr' fun e => ?_
  cases ls.entries.get e <;> simp [LineEntry.isPrefetchFill]

/-- The conditions of a prefetch of the line after `line`, in the manual's terms. -/
def MayPrefetch (p : Port) (v : Verdict) (line : Addr) (s : State) : Prop :=
  v.attrs.stream = true ∧ line.toNat < 0xFFFFFE0
    ∧ (∃ w, windowOf (windowTable s.config) (line + 32) = some (v.window, w))
    ∧ (s.lineSets.get p).lookup (line + 32) = none
    ∧ (∀ e l f, (s.lineSets.get p).entries.get e = .filling l f → f.cls ≠ .prefetch)
    ∧ s.mode = .serving ∧ (∀ e ∈ s.queue, e.line ≠ line + 32)

theorem mayPrefetch_iff (p : Port) (v : Verdict) (line : Addr) (s : State) :
    mayPrefetch p v line s = true ↔ MayPrefetch p v line s := by
  have hwindow : (windowOf (windowTable s.config) (line + 32)).map Prod.fst = some v.window ↔
      ∃ w, windowOf (windowTable s.config) (line + 32) = some (v.window, w) := by
    cases windowOf (windowTable s.config) (line + 32) with
    | none => simp
    | some found => simp [Prod.ext_iff]
  have hqueue : queueHolds (line + 32) s = false ↔ ∀ e ∈ s.queue, e.line ≠ line + 32 := by
    simp [queueHolds]
  simp only [mayPrefetch, MayPrefetch, Bool.and_eq_true, decide_eq_true_eq, Bool.not_eq_true', hasPrefetch_false_iff,
    hwindow, hqueue, and_assoc]

theorem prefetchAfter_eq (p : Port) (v : Verdict) (line : Addr) (s : State) :
    prefetchAfter p v line s =
      if mayPrefetch p v line s then s.setLineSet p ((s.lineSets.get p).startFill (line + 32) .prefetch) else s := rfl

/-- Without Stream no prefetch is made. -/
theorem prefetchAfter_notStream {v : Verdict} (h : v.attrs.stream = false) (p : Port) (line : Addr) (s : State) :
    prefetchAfter p v line s = s := by
  refine (prefetchAfter_eq p v line s).trans (if_neg fun hm => ?_)
  have hstream := ((mayPrefetch_iff p v line s).mp hm).1
  rw [h] at hstream
  cases hstream

/-- Settles O14: the test of the model is the conjunction of R62 and R63. -/
theorem prefetchFollowsServedRead : Obligations.PrefetchFollowsServedRead := by
  intro p v line s
  refine ⟨fun h => ?_, fun h => ?_⟩
  · exact (prefetchAfter_eq p v line s).trans (if_pos ((mayPrefetch_iff p v line s).mpr h))
  · exact (prefetchAfter_eq p v line s).trans (if_neg (mt (mayPrefetch_iff p v line s).mp h))

/-! ### Lookup and victim (R53, R55) -/

theorem line?_eq_some_iff (x : LineEntry) (l : Addr) :
    x.line? = some l ↔ (∃ d, x = .valid l d) ∨ (∃ d, x = .prefetched l d) ∨ ∃ f, x = .filling l f := by
  cases x <;> simp [LineEntry.line?]

theorem lookup_none_iff (ls : LineSet) (line : Addr) :
    ls.lookup line = none ↔ ∀ e d f, ls.entries.get e ≠ .valid line d ∧ ls.entries.get e ≠ .prefetched line d
      ∧ ls.entries.get e ≠ .filling line f := by
  have hentry : ∀ e, (ls.entries.get e).line? ≠ some line ↔
      ∀ d f, ls.entries.get e ≠ .valid line d ∧ ls.entries.get e ≠ .prefetched line d
        ∧ ls.entries.get e ≠ .filling line f := by
    intro e
    rw [Ne, line?_eq_some_iff]
    constructor
    · intro h d f
      exact ⟨fun hv => h (.inl ⟨d, hv⟩), fun hp => h (.inr (.inl ⟨d, hp⟩)), fun hf => h (.inr (.inr ⟨f, hf⟩))⟩
    · rintro h (⟨d, hv⟩ | ⟨d, hp⟩ | ⟨f, hf⟩)
      · exact (h d ⟨.demand, false, false, false⟩).1 hv
      · exact (h d ⟨.demand, false, false, false⟩).2.1 hp
      · exact (h 0 f).2.2 hf
  simp only [LineSet.lookup, find?_ix4_none, decide_eq_false_iff_not]
  exact forall_congr' hentry

theorem victim_of_empty {ls : LineSet} {e : Ix4} (he : ls.entries.get e = .empty)
    (hbefore : ∀ e' ∈ Ix4.all.takeWhile fun x => decide (x ≠ e), ls.entries.get e' ≠ .empty) : ls.victim = e := by
  have hfind : (Ix4.all.find? fun x => decide (ls.entries.get x = .empty)) = some e :=
    (find?_ix4 _ e).mpr ⟨decide_eq_true he, fun x hx => decide_eq_false (hbefore x hx)⟩
  simp only [LineSet.victim, hfind]

theorem victim_of_full {ls : LineSet} {e : Ix4} {front : List Ix4} (hfull : ∀ e', ls.entries.get e' ≠ .empty)
    (horder : ls.order = front ++ [e]) : ls.victim = e := by
  have hfind : (Ix4.all.find? fun x => decide (ls.entries.get x = .empty)) = none :=
    (find?_ix4_none _).mpr fun x => decide_eq_false (hfull x)
  simp only [LineSet.victim, hfind, horder, List.getLast?_concat, Option.getD_some]

/-! ### The read of any request (R53 to R55, R90) -/

section
variable {p : Port} {r : Request} {v : Verdict} {s : State} {e : Ix4}

theorem readPath_pass (h : v.attrs.buffered = false) :
    readPath p r v s = { s with ports := s.ports.set p (.readWait r v (.pass false)) } := by
  simp only [readPath, h]
  rfl

theorem readPath_lookup (h : v.attrs.buffered = true) : readPath p r v s = readLookup p r v s := by
  simp only [readPath, h, if_true]

/-- The state a hit leaves before the prefetch it may cause (R53). -/
def hitState (p : Port) (e : Ix4) (line : Addr) (data : LineData) (answered : List Byte) (s : State) : State :=
  { s with
    ports := s.ports.set p .idle
    lineSets := s.lineSets.set p
      ⟨(s.lineSets.get p).entries.set e (.valid line data), e :: (s.lineSets.get p).order.filter fun x => decide (x ≠ e)⟩
    outs := s.outs ++ [.response p (.done answered)] }

theorem readPath_hit {d : LineData} (hb : v.attrs.buffered = true) (hl : (s.lineSets.get p).lookup r.line = some e)
    (he : (s.lineSets.get p).entries.get e = .valid r.line d ∨ (s.lineSets.get p).entries.get e = .prefetched r.line d) :
    readPath p r v s =
      prefetchAfter p v r.line (hitState p e r.line d (bytesFrom d (offsetOf r.addr) r.size.bytes) s) := by
  rw [readPath_lookup hb]
  rcases he with he | he <;> simp only [readLookup, hl, he] <;> rfl

theorem readPath_join {f : Fill} (hb : v.attrs.buffered = true) (hl : (s.lineSets.get p).lookup r.line = some e)
    (he : (s.lineSets.get p).entries.get e = .filling r.line f) :
    readPath p r v s =
      { s with
        ports := s.ports.set p (.readWait r v (.fill e))
        lineSets := s.lineSets.set p
          ⟨(s.lineSets.get p).entries.set e
            (.filling r.line ⟨.demand, f.issued, f.overtaken, f.issued && f.overtaken⟩), (s.lineSets.get p).order⟩ } := by
  rw [readPath_lookup hb]
  simp only [readLookup, hl, he]
  rfl

theorem readPath_miss (hb : v.attrs.buffered = true) (hl : (s.lineSets.get p).lookup r.line = none) :
    readPath p r v s =
      { s with
        ports := s.ports.set p (.readWait r v (.fill (s.lineSets.get p).victim))
        lineSets := s.lineSets.set p
          ⟨(s.lineSets.get p).entries.set (s.lineSets.get p).victim (.filling r.line ⟨.demand, false, false, false⟩),
            (s.lineSets.get p).order.filter fun x => decide (x ≠ (s.lineSets.get p).victim)⟩ } := by
  rw [readPath_lookup hb]
  simp only [readLookup, hl]
  rfl

end

/-- A prefetch after a read looks at no claim and changes the line set alone. -/
theorem prefetchAfter_claims (p : Port) (v : Verdict) (line : Addr) (table : Quad (Option Claim))
    (status : PerPort ClaimStatus) (count : BitVec 8) (u : State) :
    prefetchAfter p v line { u with claimTable := table, claimStatus := status, armingCount := count } =
      { u with
        lineSets := (prefetchAfter p v line u).lineSets
        claimTable := table
        claimStatus := status
        armingCount := count } := by
  have hmay : mayPrefetch p v line { u with claimTable := table, claimStatus := status, armingCount := count } =
      mayPrefetch p v line u := rfl
  rw [prefetchAfter_eq, prefetchAfter_eq, hmay]
  split <;> rfl

/-- A read touches its port, its line set and the outputs, and reads nothing of the claims. -/
theorem readPath_claims (p : Port) (r : Request) (v : Verdict) (s : State) (table : Quad (Option Claim))
    (status : PerPort ClaimStatus) (count : BitVec 8) :
    readPath p r v { s with claimTable := table, claimStatus := status, armingCount := count } =
      { s with
        ports := (readPath p r v s).ports
        lineSets := (readPath p r v s).lineSets
        outs := (readPath p r v s).outs
        claimTable := table
        claimStatus := status
        armingCount := count } := by
  have hit : ∀ e d, readHit p r v e d { s with claimTable := table, claimStatus := status, armingCount := count } =
      { s with
        ports := (readHit p r v e d s).ports
        lineSets := (readHit p r v e d s).lineSets
        outs := (readHit p r v e d s).outs
        claimTable := table
        claimStatus := status
        armingCount := count } := by
    intro e d
    have hports : ∀ u, (prefetchAfter p v r.line u).ports = u.ports := by
      intro u; rw [prefetchAfter_eq]; split <;> rfl
    have houts : ∀ u, (prefetchAfter p v r.line u).outs = u.outs := by
      intro u; rw [prefetchAfter_eq]; split <;> rfl
    unfold readHit
    rw [hports, houts]
    exact prefetchAfter_claims p v r.line table status count
      (answer p (.done (r.readBytes d)) (s.setLineSet p ((s.lineSets.get p).install e (.valid r.line d))))
  unfold readPath
  split
  · unfold readLookup
    cases (s.lineSets.get p).lookup r.line with
    | none => rfl
    | some e =>
      dsimp only
      cases (s.lineSets.get p).entries.get e with
      | valid l d => exact hit e d
      | prefetched l d => exact hit e d
      | _ => rfl
  · rfl

/-- Arming reads nothing of the outputs. -/
theorem armClaim_beginEvent (p : Port) (line : Addr) (s : State) :
    (armClaim p line (beginEvent s)).claimTable = (armClaim p line s).claimTable
      ∧ (armClaim p line (beginEvent s)).claimStatus = (armClaim p line s).claimStatus
      ∧ (armClaim p line (beginEvent s)).armingCount = (armClaim p line s).armingCount := by
  have hs : (beginEvent s).prepend s.outs = s := by simp [State.prepend, beginEvent]
  have h := armClaim_keepsOutputs p line s.outs (beginEvent s)
  rw [hs] at h
  rw [h]
  exact ⟨rfl, rfl, rfl⟩

/-- Settles O12: the arming's frame under the read, then the read's four cases. -/
theorem claimReadArmsAndReads : Obligations.ClaimReadArmsAndReads := by
  refine ⟨fun p a size s v hacc hcheck => ?_, ?_⟩
  · obtain ⟨htable, hstatus, hcount⟩ := armClaim_beginEvent p (lineOf a) s
    have hline : (readRequest selClaim a size).line = lineOf a := congrArg lineOf (readRequest_addr selClaim a size)
    rw [exec_of_passed (c := .claimRead p a size) rfl hacc hcheck, acceptPassed_claimRead (by simp) rfl, hline,
      armClaim_frame, htable, hstatus, hcount, readPath_claims]
    rfl
  · rintro p r v s a l rfl rfl
    exact ⟨readPath_pass, fun e d => readPath_hit, fun e f => readPath_join, readPath_miss⟩

/-! ### PLAIN_READ and DIRECT_READ -/

theorem exec_plainRead {p : Port} {a : Addr} {size : Size} {s : State} {v : Verdict} (hacc : Accepting p s)
    (hcheck : accessCheck (windowTable s.config) p (readRequest selPlain a size) = .pass v) :
    exec (.plainRead p a size) s = .next (readPath p (readRequest selPlain a size) v (beginEvent s)) := by
  rw [exec_of_passed (c := .plainRead p a size) rfl hacc hcheck, acceptPassed_plainRead (by simp) rfl]

/-- Settles O11: both commands offer the pass read of their request. -/
theorem passReadsAreOffered : Obligations.PassReadsAreOffered := by
  intro p a size s v hacc
  refine ⟨fun hcheck => ?_, fun hcheck hb => ?_⟩
  · rw [exec_of_passed (c := .directRead p a size) rfl hacc hcheck, acceptPassed_directRead (by simp) rfl]
    rfl
  · rw [exec_plainRead hacc hcheck, readPath_pass hb]
    rfl

/-- Settles O10: the read's cases on an Idle port, and the searches of a line set. -/
theorem plainReadHitsJoinsOrMisses : Obligations.PlainReadHitsJoinsOrMisses := by
  refine ⟨fun p a size s v hacc hcheck hb => ?_, fun ls line => ⟨lookup_none_iff ls line, fun e he => ?_,
    fun e => victim_of_empty, fun e front => victim_of_full⟩⟩
  · have hline : (readRequest selPlain a size).line = lineOf a := congrArg lineOf (readRequest_addr selPlain a size)
    have hidle : s.ports.set p .idle = s.ports := by rw [← hacc.1, PerPort.set_get_same]
    rw [exec_plainRead hacc hcheck, ← hline]
    refine ⟨fun e d hl he => ?_, fun e f hl he => ?_, fun hl => ?_⟩
    · rw [readPath_hit (s := beginEvent s) hb hl he, readRequest_addr]
      refine ⟨_, rfl, ?_, fun hstream => by rw [prefetchAfter_notStream hstream]⟩
      simp only [hitState, beginEvent, hidle]
      rfl
    · rw [readPath_join (s := beginEvent s) hb hl he]
      rfl
    · rw [readPath_miss (s := beginEvent s) hb hl]
      rfl
  · exact (line?_eq_some_iff _ _).mp (lookup_some he)

end Sys2Proof.Machine
end

section
/-! Where a completion and a timeout go (R87, R88), and what the end of each downstream operation does at its owner. -/

namespace Sys2Proof.Machine

open Sys2Proof.Safety

/-! ### Arrivals -/

theorem Quad.set_set {α : Type} (v : Quad α) (i : Ix4) (x y : α) : (v.set i x).set i y = v.set i y := by
  cases i <;> rfl

theorem liveOp_eq_some_iff (t : Tag) (s : State) (o : Occupant) :
    liveOp t s = some o ↔ (s.slots.get t.slot).occupant = some o ∧ o.gen = t.gen := by
  refine ⟨liveOp_spec, fun ⟨ho, hg⟩ => ?_⟩
  unfold liveOp
  simp [ho, hg]

/-- The tag and the completion of the ten commands that bring one (R87). -/
def completionOf : Instr → Option (Tag × Completion)
  | .fillCompletion t c => some (t, c)
  | .passReadCompletion t c => some (t, c)
  | .storeCompletion t c => some (t, c)
  | .commitCompletion t c => some (t, c)
  | .outcomeCompletion t c => some (t, c)
  | .readPhaseCompletion t c => some (t, c)
  | .writePhaseCompletion t c => some (t, c)
  | .loaderReadCompletion t c => some (t, c)
  | .staleCompletion t c => some (t, c)
  | .discardedOperationEnd t c => some (t, c)
  | _ => none

theorem exec_of_completionOf {i : Instr} {t : Tag} {c : Completion} (h : completionOf i = some (t, c)) (s : State) :
    exec i s = .next (finishEvent (arriveCompletion t c (beginEvent s))) := by
  obtain ⟨hfill, hpass, hstore, hcommit, houtcome, hread, hwrite, hloader, hstale, hdiscarded⟩ := exec_completion t c s
  cases i <;> cases h
  exacts [hfill, hpass, hstore, hcommit, houtcome, hread, hwrite, hloader, hstale, hdiscarded]

/-- A completion whose tag names a live operation reaches its owner, the slot freed (R87, R89). -/
theorem exec_of_liveOwner {i : Instr} {t : Tag} {c : Completion} {ow : Owner} {s u : State}
    (h : completionOf i = some (t, c)) (hlive : LiveOwner t ow s)
    (hend : endOperation t.slot ow (endOf c) (freeSlot t.slot (beginEvent s)) = u) :
    exec i s = .next (finishEvent u) := by
  obtain ⟨o, ho, rfl⟩ := hlive
  have hbegin : liveOp t (beginEvent s) = some o := ho
  rw [exec_of_completionOf h, ← hend]
  unfold arriveCompletion
  rw [hbegin]

/-- A timeout of a live operation reaches its owner, the slot abandoned (R88). -/
theorem exec_timeout_of_liveOwner {t : Tag} {ow : Owner} {s u : State} (h : LiveOwner t ow s)
    (hend : endOperation t.slot ow .timeout (abandonSlot t.slot t.gen (beginEvent s)) = u) :
    exec (.downstreamTimeout t) s = .next (finishEvent u) := by
  obtain ⟨o, ho, rfl⟩ := h
  have hbegin : liveOp t (beginEvent s) = some o := ho
  rw [← hend]
  change Host.Outcome.next (finishEvent (takeTimeout t (beginEvent s))) = _
  unfold takeTimeout
  rw [hbegin]

/-- Settles O44: the arrival looks at the live operation the tag names, and there is none or a discarded one. -/
theorem discardedCompletionsReachNoBlock : Obligations.DiscardedCompletionsReachNoBlock := by
  intro t c s
  refine ⟨fun h => ?_, fun h => exec_of_liveOwner rfl h rfl, liveOp_eq_some_iff t s⟩
  have hbegin : liveOp t (beginEvent s) = none := h
  rw [exec_of_completionOf (i := .staleCompletion t c) rfl]
  unfold arriveCompletion
  rw [hbegin]
  rfl

/-! ### Fills (R57 to R59) and pass reads (R90) -/

/-- The response the end of a read gives: the bytes, or the reason of the failure. -/
def readResponse (bytes : LineData → List Byte) : EndResult → Response
  | .ok data => .done (bytes data)
  | .error => .failed .downstreamError
  | .timeout => .failed .downstreamTimeout

theorem fillWaiter_of_wait {p : Port} {e : Ix4} {r : Request} {v : Verdict} {s : State}
    (h : s.ports.get p = .readWait r v (.fill e)) : fillWaiter p e s = some (r, v) := by
  unfold fillWaiter
  simp [h]

section
variable {p : Port} {e : Ix4} {l : Addr} {f : Fill} {s : State}

theorem fillEnd_issued (he : (s.lineSets.get p).entries.get e = .filling l f) (hi : f.issued = true) (res : EndResult) :
    fillEnd p e res s =
      match res with
      | .ok data => fillDone p e l f data s
      | .error => fillFailed p e l f .downstreamError s
      | .timeout => fillFailed p e l f .downstreamTimeout s := by
  unfold fillEnd
  simp only [he, hi, if_true]
  cases res <;> rfl

theorem fillEnd_installs_prefetch (he : (s.lineSets.get p).entries.get e = .filling l f) (hi : f.issued = true)
    (ho : f.overtaken = false) (hc : f.cls = .prefetch) (d : LineData) :
    fillEnd p e (.ok d) s = installEntry p e (.prefetched l d) s := by
  rw [fillEnd_issued he hi]
  simp [fillDone, ho, hc]

theorem fillEnd_installs_demand {r : Request} {v : Verdict} (he : (s.lineSets.get p).entries.get e = .filling l f)
    (hi : f.issued = true) (ho : f.overtaken = false) (hc : f.cls = .demand)
    (hw : s.ports.get p = .readWait r v (.fill e)) (d : LineData) :
    fillEnd p e (.ok d) s =
      prefetchAfter p v l (answer p (.done (r.readBytes d)) (installEntry p e (.valid l d) s)) := by
  rw [fillEnd_issued he hi]
  simp [fillDone, ho, hc, installDemand, fillWaiter_of_wait hw]

/-- A fill that installs nothing: overtaken, or ended without data. -/
theorem fillEnd_drops_prefetch (he : (s.lineSets.get p).entries.get e = .filling l f) (hi : f.issued = true)
    (hc : f.cls = .prefetch) {res : EndResult} (hres : f.overtaken = true ∨ ∀ d, res ≠ .ok d) :
    fillEnd p e res s = setLineEntry p e .empty s := by
  rw [fillEnd_issued he hi]
  cases res with
  | ok d =>
    have ho := hres.resolve_right fun h => h d rfl
    simp [fillDone, ho, hc]
  | error => simp [fillFailed, hc]
  | timeout => simp [fillFailed, hc]

theorem fillEnd_offers_again (he : (s.lineSets.get p).entries.get e = .filling l f) (hi : f.issued = true)
    (hc : f.cls = .demand) (hr : f.refill = true) {res : EndResult} (hres : f.overtaken = true ∨ ∀ d, res ≠ .ok d) :
    fillEnd p e res s = setLineEntry p e (.filling l refilled) s := by
  rw [fillEnd_issued he hi]
  cases res with
  | ok d =>
    have ho := hres.resolve_right fun h => h d rfl
    simp [fillDone, ho, hc, hr]
  | error => simp [fillFailed, hc, hr]
  | timeout => simp [fillFailed, hc, hr]

theorem fillEnd_answers_only {r : Request} {v : Verdict} (he : (s.lineSets.get p).entries.get e = .filling l f)
    (hi : f.issued = true) (hc : f.cls = .demand) (hr : f.refill = false)
    (hw : s.ports.get p = .readWait r v (.fill e)) {res : EndResult} (hres : f.overtaken = true ∨ ∀ d, res ≠ .ok d) :
    fillEnd p e res s = setLineEntry p e .empty (answer p (readResponse r.readBytes res) s) := by
  rw [fillEnd_issued he hi]
  have hwaiter := fillWaiter_of_wait hw
  cases res with
  | ok d =>
    have ho := hres.resolve_right fun h => h d rfl
    simp [fillDone, ho, hc, hr, answerFill, hwaiter, readResponse]
  | error => simp [fillFailed, hc, hr, failFill, hwaiter, readResponse]
  | timeout => simp [fillFailed, hc, hr, failFill, hwaiter, readResponse]

theorem passEnd_of_wait {r : Request} {v : Verdict} (hw : s.ports.get p = .readWait r v (.pass true)) (res : EndResult) :
    passEnd p res s = answer p (readResponse (bytesFrom · 0 r.size.bytes) res) s := by
  unfold passEnd
  rw [hw]
  cases res <;> rfl

end

/-- Settles O29: the completion reaches the fill, which is installed. -/
theorem fillCompletionInstallsTheLine : Obligations.FillCompletionInstallsTheLine := by
  intro t d p e l f s hlive he hi ho
  refine ⟨fun r v hc hw => ?_, fun hc => ?_⟩
  · have hdone := exec_of_liveOwner (i := .fillCompletion t (.ok d)) rfl hlive
      (fillEnd_installs_demand (s := freeSlot t.slot (beginEvent s)) he hi ho hc hw d)
    refine ⟨_, hdone, rfl, fun hstream => ?_⟩
    rw [hdone, prefetchAfter_notStream hstream]
  · exact exec_of_liveOwner rfl hlive
      (fillEnd_installs_prefetch (s := freeSlot t.slot (beginEvent s)) he hi ho hc d)

theorem endOf_drops {f : Fill} {c : Completion} (h : f.overtaken = true ∨ c = .error) :
    f.overtaken = true ∨ ∀ d, endOf c ≠ .ok d := by
  refine h.imp_right fun hc d => ?_
  subst hc
  nofun

/-- Settles O30: the three ends of a fill that installs nothing. -/
theorem fillCompletionWithoutInstall : Obligations.FillCompletionWithoutInstall := by
  intro t c p e l f s hlive he hi hres
  refine ⟨fun hc => ?_, fun hc hr => ?_, fun r v hc hr hw => ?_⟩
  · exact exec_of_liveOwner rfl hlive
      (fillEnd_drops_prefetch (s := freeSlot t.slot (beginEvent s)) he hi hc (endOf_drops hres))
  · exact exec_of_liveOwner rfl hlive
      (fillEnd_offers_again (s := freeSlot t.slot (beginEvent s)) he hi hc hr (endOf_drops hres))
  · refine exec_of_liveOwner rfl hlive
      ((fillEnd_answers_only (s := freeSlot t.slot (beginEvent s)) he hi hc hr hw (endOf_drops hres)).trans ?_)
    cases c <;> rfl

/-- Settles O31: the completion reaches the pass read, and its end answers the port. -/
theorem passReadCompletionAnswersThePort : Obligations.PassReadCompletionAnswersThePort := by
  intro t c p r v s hlive hw
  refine exec_of_liveOwner rfl hlive ((passEnd_of_wait (s := freeSlot t.slot (beginEvent s)) hw (endOf c)).trans ?_)
  cases c <;> rfl

end Sys2Proof.Machine
end

section
/-! The ends of line writes (R14 to R16) and of locked updates (R70 to R77, R157, R158), deliveries (R19) and reports (R155). -/

namespace Sys2Proof.Machine

open Sys2Proof.Safety

/-! ### Deliveries and reports -/

theorem deliver_waiting {p : Port} {serial : Nat} {s : State} {r : Request} {v : Verdict} (x : Response)
    (h : s.ports.get p = .settleWait r v serial ∨ s.ports.get p = .countWait r v serial) :
    deliver p serial x s = answer p x s := by
  unfold deliver
  rcases h with h | h <;> simp [h]

theorem deliver_notWaiting {p : Port} {serial : Nat} {s : State} (x : Response)
    (h : ∀ r v, s.ports.get p ≠ .settleWait r v serial ∧ s.ports.get p ≠ .countWait r v serial) :
    deliver p serial x s = s := by
  refine (deliver_frame p serial x s).resolve_right ?_
  rintro ⟨-, ⟨r, v, hw⟩ | ⟨r, v, hw⟩⟩
  · exact (h r v).1 hw
  · exact (h r v).2 hw

theorem deliver_withQueue (p : Port) (serial : Nat) (x : Response) (s : State) (q : List Entry) :
    deliver p serial x { s with queue := q } = { deliver p serial x s with queue := q } := by
  unfold deliver
  cases s.ports.get p with
  | settleWait r v n => dsimp only; split <;> rfl
  | countWait r v n => dsimp only; split <;> rfl
  | _ => rfl

theorem deliver_queue (p : Port) (serial : Nat) (x : Response) (s : State) : (deliver p serial x s).queue = s.queue := by
  rcases deliver_frame p serial x s with h | ⟨h, -⟩ <;> rw [h]
  rfl

theorem deliver_engine (p : Port) (serial : Nat) (x : Response) (s : State) :
    (deliver p serial x s).engine = s.engine := by
  rcases deliver_frame p serial x s with h | ⟨h, -⟩ <;> rw [h]
  rfl

/-- Settles O46: the first report sets the staging, a further one joins it. -/
theorem reportIsAbsorbed : Obligations.ReportIsAbsorbed := by
  intro p k a s
  refine ⟨fun h => ?_, fun f h => ?_⟩
  · unfold reportFault
    rw [h]
    rfl
  · unfold reportFault
    rw [h]
    rfl

/-! ### Line writes -/

section
variable {e : Entry} {m : Mask} {d : LineData} {settled : Bool} {s : State}

theorem lineWriteEnd_store (hq : s.queue.head? = some e) (hb : e.body = .store m d settled) (res : EndResult) :
    lineWriteEnd res s = removeHead (storeReport e settled res s) := by
  unfold lineWriteEnd
  simp only [hq, hb]
  rfl

theorem lineWriteEnd_commit (hq : s.queue.head? = some e) (hb : e.body = .commit m d settled) (res : EndResult) :
    lineWriteEnd res s = removeHead (commitRewrite res (commitReport e settled res s)) := by
  unfold lineWriteEnd
  simp only [hq, hb]
  rfl

theorem lineWriteEnd_outcome {oc : OutcomeContent} (hq : s.queue.head? = some e) (hb : e.body = .outcome oc)
    (res : EndResult) : lineWriteEnd res s = outcomeEnd res s := by
  unfold lineWriteEnd
  simp only [hq, hb]

theorem commitReport_withQueue (e : Entry) (settled : Bool) (res : EndResult) (s : State) (q : List Entry) :
    commitReport e settled res { s with queue := q } = { commitReport e settled res s with queue := q } := by
  cases settled with
  | true => exact deliver_withQueue _ _ _ _ _
  | false => cases res <;> rfl

theorem commitReport_queue (e : Entry) (settled : Bool) (res : EndResult) (s : State) :
    (commitReport e settled res s).queue = s.queue := by
  cases settled with
  | true => exact deliver_queue _ _ _ _
  | false => cases res <;> rfl

/-- The queue a Commit head's end leaves: the Outcome behind keeps its code only with Done (R15). -/
def queueAfterCommit (res : EndResult) (o : Entry) (rest : List Entry) : List Entry :=
  match res with
  | .ok _ => o :: rest
  | .error => o.withFailedCode :: rest
  | .timeout => o.withFailedCode :: rest

theorem lineWriteEnd_commit_pair {o : Entry} {rest : List Entry} (hq : s.queue = e :: o :: rest)
    (hb : e.body = .commit m d settled) (res : EndResult) :
    lineWriteEnd res s = spacePass (commitReport e settled res { s with queue := queueAfterCommit res o rest }) := by
  have hhead : s.queue.head? = some e := by rw [hq]; rfl
  have hreport : (commitReport e settled res s).queue = e :: o :: rest := (commitReport_queue e settled res s).trans hq
  rw [lineWriteEnd_commit hhead hb, commitReport_withQueue e settled res s (queueAfterCommit res o rest)]
  unfold removeHead dropHead commitRewrite
  cases res <;> simp [hreport, rewriteBehindHead, queueAfterCommit]

theorem withFailedCode_outcome {o : Entry} {oc : OutcomeContent} (h : o.body = .outcome oc) :
    o.withFailedCode = { o with body := .outcome ⟨oc.sequence, .failed, oc.size, oc.addr⟩ } := by
  unfold Entry.withFailedCode
  rw [h]

end

/-- Settles O32: the end of a Store head by settled and result. -/
theorem storeCompletionEndsTheStore : Obligations.StoreCompletionEndsTheStore := by
  refine ⟨fun t c e m d settled s hlive hq hb => ?_, fun i s => rfl, fun p serial x s => ⟨fun r v h => ?_, deliver_notWaiting x⟩⟩
  · refine exec_of_liveOwner rfl hlive
      ((lineWriteEnd_store (s := freeSlot t.slot (beginEvent s)) hq hb (endOf c)).trans ?_)
    cases settled <;> cases c <;> rfl
  · exact deliver_waiting x h

/-- Settles O33: the end of a Commit head with its Outcome behind. -/
theorem commitCompletionRewritesTheOutcome : Obligations.CommitCompletionRewritesTheOutcome := by
  intro t e o rest m d settled oc s hlive hq hb ho
  have hend := fun c => lineWriteEnd_commit_pair (s := freeSlot t.slot (beginEvent s)) hq hb (endOf c)
  refine ⟨fun x => ?_, ?_⟩
  · refine exec_of_liveOwner rfl hlive ((hend (.ok x)).trans ?_)
    cases settled <;> rfl
  · refine exec_of_liveOwner rfl hlive ((hend .error).trans ?_)
    rw [← withFailedCode_outcome ho]
    cases settled <;> rfl

/-- Settles O34: the end of an Outcome head. -/
theorem outcomeCompletionMayLoseTheRecord : Obligations.OutcomeCompletionMayLoseTheRecord := by
  intro t e oc s hlive hq hb
  have hend := fun c => lineWriteEnd_outcome (s := freeSlot t.slot (beginEvent s)) hq hb (endOf c)
  refine ⟨fun d => ?_, ?_, ?_⟩
  · exact exec_of_liveOwner rfl hlive (hend (.ok d))
  · exact exec_of_liveOwner rfl hlive (hend .error)
  · exact exec_timeout_of_liveOwner hlive
      (lineWriteEnd_outcome (s := abandonSlot t.slot t.gen (beginEvent s)) hq hb .timeout)

/-! ### Locked updates -/

theorem updateEnd_head {e : Entry} {s : State} (hq : s.queue.head? = some e) (result : UpdateResult) :
    updateEnd result s = removeHead (engineIdle (updateReport e result s)) := by
  unfold updateEnd
  rw [hq]

theorem updateReport_add {e : Entry} {operand : Word} {settled : Bool} (hb : e.body = .add operand settled)
    (result : UpdateResult) (s : State) : updateReport e result s = addEnd e settled result s := by
  unfold updateReport
  rw [hb]

theorem updateReport_count {e : Entry} (hb : e.body = .count) (result : UpdateResult) (s : State) :
    updateReport e result s = countEnd e result s := by
  unfold updateReport
  rw [hb]

theorem updateReport_faultPost {e : Entry} {f : FaultContent} (hb : e.body = .faultPost f) (result : UpdateResult)
    (s : State) : updateReport e result s = faultPostEnd result s := by
  unfold updateReport
  rw [hb]

/-- The write phase is issued in the slot its read phase has just left (R74). -/
theorem issueIn_freed {i : Ix4} {s u : State} (ow : Owner) (req : MemRequest)
    (h : u.slots = s.slots.set i { s.slots.get i with occupant := none }) :
    issueIn i ow req u =
      { u with
        slots := s.slots.set i
          { s.slots.get i with
            occupant := some ⟨ow, req, (s.slots.get i).chooseGen, timeoutOf u⟩
            nextGen := (s.slots.get i).chooseGen.next }
        outs := u.outs ++ [.request ⟨i, (s.slots.get i).chooseGen⟩ req] } := by
  have hslot : u.slots.get i = { s.slots.get i with occupant := none } := by rw [h, Quad.get_set_same]
  unfold issueIn
  rw [hslot]
  simp only [State.emit, State.setSlot, Slot.issue, h, Quad.set_set]
  rfl

section
variable {e : Entry} {i : Ix4} {d : LineData} {s : State}

theorem readPhaseEnd_word {nw : Word × Bool} (hq : s.queue.head? = some e)
    (hb : (∃ operand settled, e.body = .add operand settled ∧ nw = addWord (d.extractLsb' 0 32) operand)
      ∨ (e.body = .count ∧ nw = countWord (d.extractLsb' 0 32))) :
    readPhaseEnd i (.ok d) s = issueWordWrite i e (d.extractLsb' 0 32) nw s := by
  unfold readPhaseEnd
  rcases hb with ⟨operand, settled, hb, rfl⟩ | ⟨hb, rfl⟩
  · simp only [hq, hb]
    rfl
  · simp only [hq, hb]
    rfl

theorem readPhaseEnd_faultPost {f : FaultContent} (hq : s.queue.head? = some e) (hb : e.body = .faultPost f) :
    readPhaseEnd i (.ok d) s = issueRecordWrite i e f d s := by
  unfold readPhaseEnd
  simp only [hq, hb]

end

/-- Settles O36: the read phase's end issues the write phase, or ends the update. -/
theorem readPhaseOfAWordIssuesItsWrite : Obligations.ReadPhaseOfAWordIssuesItsWrite := by
  refine ⟨fun t e nw d s hlive hq hb => ⟨?_, fun operand hadd => ?_, fun hb' => ?_⟩, fun w off i hoff hi => ?_⟩
  · exact exec_of_liveOwner rfl hlive ((readPhaseEnd_word (s := freeSlot t.slot (beginEvent s)) hq hb).trans
      (issueIn_freed (s := s) _ _ rfl))
  · refine exec_of_liveOwner rfl hlive ((updateEnd_head (s := freeSlot t.slot (beginEvent s)) hq .readError).trans ?_)
    rw [updateReport_add hadd]
    rfl
  · refine exec_of_liveOwner rfl hlive ((updateEnd_head (s := freeSlot t.slot (beginEvent s)) hq .readError).trans ?_)
    rcases hb' with ⟨operand, hadd⟩ | hcount
    · rw [updateReport_add hadd]
      rfl
    · rw [updateReport_count hcount]
      rfl
  · exact ⟨byteAt_wordLineData w off i hi, spanMask_getLsbD off 4 i hi⟩

/-- Settles O37: the record's write phase, or the loss of the record. -/
theorem readPhaseOfAFaultPostMerges : Obligations.ReadPhaseOfAFaultPostMerges := by
  intro t e f d s hlive hq hb
  refine ⟨?_, ?_⟩
  · exact exec_of_liveOwner rfl hlive ((readPhaseEnd_faultPost (s := freeSlot t.slot (beginEvent s)) hq hb).trans
      (issueIn_freed (s := s) _ _ rfl))
  · refine exec_of_liveOwner rfl hlive ((updateEnd_head (s := freeSlot t.slot (beginEvent s)) hq .readError).trans ?_)
    rw [updateReport_faultPost hb]
    rfl

theorem addEnd_done (e : Entry) (settled : Bool) (s : State) :
    addEnd e settled .done s =
      wrapReport e s.engine.wraps (if settled then deliver e.port e.serial (.done []) s else s) := rfl

/-- Settles O39: the write phase's end, by the kind of the head. -/
theorem writePhaseOfAWordEndsTheUpdate : Obligations.WritePhaseOfAWordEndsTheUpdate := by
  refine ⟨fun t c e old new wrap s s0 hlive hq hengine hs0 => ?_, fun s => rfl, fun w j => ⟨rfl, wordBytes_get w j⟩⟩
  have hhead : s0.queue.head? = some e := by rw [hs0]; exact hq
  have hwrap : s0.engine.wraps = wrap := by rw [hs0]; exact congrArg Engine.wraps hengine
  have hold : s0.engine.oldValue = old := by rw [hs0]; exact congrArg Engine.oldValue hengine
  have hend : ∀ result u, updateReport e result s0 = u → writePhaseEnd (endOf c) s0 = updateEnd result s0 →
      exec (.writePhaseCompletion t c) s = .next (finishEvent (removeHead (engineIdle u))) := by
    intro result u hu hres
    refine exec_of_liveOwner rfl hlive ?_
    change writePhaseEnd (endOf c) (freeSlot t.slot { s with outs := [] }) = _
    rw [← hs0, hres, updateEnd_head hhead, hu]
  refine ⟨fun operand settled hadd => ?_, fun hcount => ?_⟩
  · cases c with
    | ok d =>
      refine hend .done _ ?_ rfl
      rw [updateReport_add hadd, addEnd_done, hwrap]
      cases settled <;> rfl
    | error =>
      refine hend .writeError _ ?_ rfl
      rw [updateReport_add hadd]
      cases settled <;> rfl
  · cases c with
    | ok d =>
      refine hend .done _ ?_ rfl
      rw [updateReport_count hcount, ← hwrap, ← hold]
      rfl
    | error =>
      refine hend .writeError _ ?_ rfl
      rw [updateReport_count hcount]
      rfl

/-- Settles O40: the pulse follows the Notify mark kept at the read phase. -/
theorem faultPostEndPulsesOrLoses : Obligations.FaultPostEndPulsesOrLoses := by
  intro t e f mark s hlive hq hb hmark
  refine ⟨fun d => ?_, ?_⟩
  · refine exec_of_liveOwner rfl hlive ((updateEnd_head (s := freeSlot t.slot (beginEvent s)) hq .done).trans ?_)
    rw [updateReport_faultPost hb]
    have hpulse : (freeSlot t.slot (beginEvent s)).notifyMark = some mark := hmark
    unfold faultPostEnd
    simp only [hpulse]
    cases mark <;> rfl
  · refine exec_of_liveOwner rfl hlive ((updateEnd_head (s := freeSlot t.slot (beginEvent s)) hq .writeError).trans ?_)
    rw [updateReport_faultPost hb]
    rfl

/-! ### Loader reads -/

theorem loaderEnd_header {s : State} (h : s.loader.phase = .header) (d : LineData) :
    loaderEnd (.ok d) s =
      if headerPasses (s.loader.block ++ [d]) then
        offerLine 1 (furtherLines (blockCount (s.loader.block ++ [d]))) (takeLine d s)
      else loadComplete .fallback s := by
  unfold loaderEnd
  rw [h]

theorem loaderEnd_line {s : State} {k m : Nat} (h : s.loader.phase = .line k m) (d : LineData) :
    loaderEnd (.ok d) s =
      if k < m then offerLine (k + 1) m (takeLine d s) else loadComplete (loadResult (s.loader.block ++ [d])) s := by
  unfold loaderEnd
  rw [h]

/-- Settles O41: the end of the loader's read by its phase. -/
theorem loaderReadCompletionAdvancesTheLoad : Obligations.LoaderReadCompletionAdvancesTheLoad := by
  intro t d s s0 hlive hs0
  subst hs0
  refine ⟨fun h hpass => ?_, fun h hfail => ?_, fun k m h hk => ?_, fun k m h hk => ?_, ?_⟩
  · exact exec_of_liveOwner rfl hlive
      ((loaderEnd_header (s := freeSlot t.slot (beginEvent s)) h d).trans (if_pos hpass))
  · exact exec_of_liveOwner rfl hlive
      ((loaderEnd_header (s := freeSlot t.slot (beginEvent s)) h d).trans (if_neg (ne_true_of_eq_false hfail)))
  · exact exec_of_liveOwner rfl hlive ((loaderEnd_line (s := freeSlot t.slot (beginEvent s)) h d).trans (if_pos hk))
  · exact exec_of_liveOwner rfl hlive
      ((loaderEnd_line (s := freeSlot t.slot (beginEvent s)) h d).trans (if_neg (Nat.not_lt.mpr hk)))
  · exact exec_of_liveOwner (c := .error) rfl hlive rfl

/-! ### Timeouts (R88) -/

theorem timeout_drops (f : Fill) : f.overtaken = true ∨ ∀ d, EndResult.timeout ≠ .ok d := .inr fun _ => nofun

/-- Either phase of a locked update ends it at a timeout. -/
theorem exec_timeout_of_phase {t : Tag} {e : Entry} {s : State} (h : LiveOwner t .readPhase s ∨ LiveOwner t .writePhase s)
    (hq : s.queue.head? = some e) :
    ∃ result : UpdateResult, result.reason = .downstreamTimeout ∧ result.addKind = .addTimeout ∧ result ≠ .done
      ∧ exec (.downstreamTimeout t) s = .next (finishEvent (removeHead (engineIdle
        (updateReport e result (abandonSlot t.slot t.gen (beginEvent s)))))) := by
  rcases h with h | h
  · exact ⟨.readTimeout, rfl, rfl, nofun, exec_timeout_of_liveOwner h
      (updateEnd_head (s := abandonSlot t.slot t.gen (beginEvent s)) hq .readTimeout)⟩
  · exact ⟨.writeTimeout, rfl, rfl, nofun, exec_timeout_of_liveOwner h
      (updateEnd_head (s := abandonSlot t.slot t.gen (beginEvent s)) hq .writeTimeout)⟩

theorem addEnd_failed {result : UpdateResult} (h : result ≠ .done) (e : Entry) (settled : Bool) (s : State) :
    addEnd e settled result s =
      if settled then deliver e.port e.serial (.failed result.reason) s
      else reportFault e.port result.addKind e.target s := by
  cases result with
  | done => exact absurd rfl h
  | _ => rfl

theorem countEnd_failed {result : UpdateResult} (h : result ≠ .done) (e : Entry) (s : State) :
    countEnd e result s = deliver e.port e.serial (.failed result.reason) s := by
  cases result with
  | done => exact absurd rfl h
  | _ => rfl

theorem faultPostEnd_failed {result : UpdateResult} (h : result ≠ .done) (s : State) :
    faultPostEnd result s = loseRecord s := by
  cases result with
  | done => exact absurd rfl h
  | _ => rfl

theorem takeTimeout_ended {t : Tag} {s : State} (h : liveOp t s = none) : takeTimeout t s = s := by
  unfold takeTimeout
  rw [h]

/-- Settles O45: the timeout reaches the owner of the live operation, and each owner ends its own. -/
theorem timeoutAbandonsTheOperation : Obligations.TimeoutAbandonsTheOperation := by
  intro t s s0 hs0
  have habandon : s0 = abandonSlot t.slot t.gen (beginEvent s) := hs0
  have hends : ∀ {ow u}, LiveOwner t ow s → endOperation t.slot ow .timeout s0 = u →
      exec (.downstreamTimeout t) s = .next (finishEvent u) := fun hlive hu =>
    exec_timeout_of_liveOwner hlive (habandon ▸ hu)
  have hports : s0.ports = s.ports := by rw [hs0]
  have hsets : s0.lineSets = s.lineSets := by rw [hs0]
  have hqueue : s0.queue = s.queue := by rw [hs0]
  have houts : s0.outs = [] := by rw [hs0]
  refine ⟨fun o ho => hends ⟨o, ho, rfl⟩ rfl, fun p e l f hlive he hi => ?_, fun p r v hlive hw => ?_,
    fun e m d settled hlive hq hb => ?_, fun e o rest m d settled oc hlive hq hb ho => ?_, fun e hlive hq => ?_,
    fun hlive => hends hlive rfl, fun hlive => hends hlive rfl, fun h => ?_⟩
  · rw [← hsets] at he
    refine ⟨fun hc => ?_, fun hc hr => ?_, fun r v hc hr hw => ?_⟩
    · rw [← hsets]
      exact hends hlive (fillEnd_drops_prefetch he hi hc (timeout_drops f))
    · rw [← hsets]
      exact hends hlive (fillEnd_offers_again he hi hc hr (timeout_drops f))
    · rw [← hports] at hw
      refine hends hlive ((fillEnd_answers_only he hi hc hr hw (timeout_drops f)).trans ?_)
      rw [← hsets, ← hports]
      simp [setLineEntry, answer, State.emit, State.setPort, State.setLineSet, readResponse, LineSet.setEntry, houts]
  · rw [← hports] at hw
    refine hends hlive ((passEnd_of_wait hw .timeout).trans ?_)
    rw [← hports]
    simp [answer, State.emit, State.setPort, readResponse, houts]
  · rw [← hqueue] at hq
    refine hends hlive ((lineWriteEnd_store hq hb .timeout).trans ?_)
    cases settled <;> rfl
  · rw [← hqueue] at hq
    refine hends hlive ((lineWriteEnd_commit_pair hq hb .timeout).trans ?_)
    rw [← withFailedCode_outcome ho]
    cases settled <;> rfl
  · obtain ⟨result, hreason, hkind, hfailed, hexec⟩ := exec_timeout_of_phase hlive hq
    rw [← habandon] at hexec
    refine ⟨fun operand hadd => ?_, fun hb => ?_, fun c hpost => ?_⟩
    · rw [hexec, updateReport_add hadd, addEnd_failed hfailed, hkind]
      rfl
    · rcases hb with ⟨operand, hadd⟩ | hcount
      · rw [hexec, updateReport_add hadd, addEnd_failed hfailed, hreason]
        rfl
      · rw [hexec, updateReport_count hcount, countEnd_failed hfailed, hreason]
        rfl
    · rw [hexec, updateReport_faultPost hpost, faultPostEnd_failed hfailed]
      rfl
  · exact congrArg (fun u => Host.Outcome.next (finishEvent u)) (takeTimeout_ended (s := beginEvent s) h)

end Sys2Proof.Machine
end

section
/-! Writes: what the admission of a request makes and answers (R2, R9, R11), merging (R6), the waiting list (R4, R5) and the
decision of a claim write (R39, R40). -/

namespace Sys2Proof.Machine

open Sys2Proof.Safety

/-! ### An admission and the outputs of the event -/

/-- What keeps the outputs and emits nothing gives the same state whatever the event has put on the links so far. -/
theorem KeepsOutputs.withOuts {f : State → State} (hf : KeepsOutputs f) (hsilent : ∀ s, (f s).outs = s.outs) (s : State)
    (o : List Output) : f { s with outs := o } = { f s with outs := o } := by
  have hbare : (f (beginEvent s)).outs = [] := hsilent (beginEvent s)
  have hs : (beginEvent s).prepend s.outs = s := by simp [State.prepend, beginEvent]
  have ho : (beginEvent s).prepend o = { s with outs := o } := by simp [State.prepend, beginEvent]
  have hfs : f s = (f (beginEvent s)).prepend s.outs := by rw [← hf, hs]
  rw [← ho, hf, hfs]
  simp [State.prepend, hbare]

theorem makeVisible_withOuts (line : Addr) (s : State) (o : List Output) :
    makeVisible line { s with outs := o } = { makeVisible line s with outs := o } :=
  (makeVisible_keepsOutputs line).withOuts (fun s => by rw [makeVisible_frame]) s o

theorem admitEntry_withOuts (p : Port) (target : Addr) (body : EntryBody) (s : State) (o : List Output) :
    admitEntry p target body { s with outs := o } = { admitEntry p target body s with outs := o } :=
  (admitEntry_keepsOutputs p target body).withOuts (admitEntry_outs p target body) s o

theorem consumeClaim_withOuts (p : Port) (s : State) (o : List Output) :
    consumeClaim p { s with outs := o } = { consumeClaim p s with outs := o } :=
  (consumeClaim_keepsOutputs p).withOuts (consumeClaim_outs p) s o

theorem makeVisible_ports (line : Addr) (s : State) : (makeVisible line s).ports = s.ports := by
  rw [makeVisible_frame]

/-! ### Views by selector (R103) -/

theorem viewOf_eq_plain_iff (sel : BitVec 4) : viewOf sel = .plain ↔ sel.toNat = 0 := by
  revert sel; decide

theorem viewOf_eq_direct_iff (sel : BitVec 4) : viewOf sel = .direct ↔ sel.toNat = 1 := by
  revert sel; decide

theorem usesQueue_iff (r : Request) :
    r.usesQueue = true ↔
      ((r.view = .plain ∨ r.view = .direct ∨ r.view = .claim) ∧ r.op = .write) ∨ r.view = .tally := by
  unfold Request.usesQueue
  cases r.view <;> cases r.op <;> simp

theorem need_eq (r : Request) : r.need = if r.view = .claim then 2 else 1 := by
  unfold Request.need
  cases r.view <;> rfl

theorem needFits_iff (n : Nat) (s : State) : needFits n s = true ↔ nonFaultPosts s + n ≤ 14 ∧ s.queue.length + n ≤ 16 :=
  decide_eq_true_iff

theorem needFits_false_iff (n : Nat) (s : State) :
    needFits n s = false ↔ 14 < nonFaultPosts s + n ∨ 16 < s.queue.length + n := by
  rw [← Bool.not_eq_true, needFits_iff]
  omega

/-! ### What an admission makes and answers (R2, R9, R11) -/

section
variable {p : Port} {r : Request} {v : Verdict} {s : State}

theorem admitSettling_posted (target : Addr) (body : EntryBody) :
    admitSettling p r v false target body s =
      { admitEntry p target body s with
        ports := s.ports.set p .idle, outs := s.outs ++ [.response p (.done [])] } := by
  unfold admitSettling
  simp only [Bool.false_eq_true, if_false, answer, State.setPort, State.emit, admitEntry_ports, admitEntry_outs]

theorem admitSettling_settled (target : Addr) (body : EntryBody) :
    admitSettling p r v true target body s =
      { admitEntry p target body s with ports := s.ports.set p (.settleWait r v s.nextSerial) } := by
  unfold admitSettling
  simp only [if_true, State.setPort, admitEntry_ports]

theorem admitRequest_store (hv : r.view = .plain ∨ r.view = .direct) (ho : r.op = .write) :
    admitRequest p r v s =
      admitSettling p r v (r.settledStore v) r.line (.store r.mask r.lineData (r.settledStore v)) s := by
  unfold admitRequest
  rcases hv with hv | hv <;> simp only [hv, ho]

theorem settledStore_plain (hv : r.view = .plain) : r.settledStore v = v.attrs.settled := by
  unfold Request.settledStore
  rw [hv]

theorem settledStore_direct (hv : r.view = .direct) : r.settledStore v = true := by
  unfold Request.settledStore
  rw [hv]

theorem admitRequest_add (hv : r.view = .tally) (ho : r.op = .write) :
    admitRequest p r v s = admitSettling p r v v.attrs.settled r.addr (.add r.operand v.attrs.settled) s := by
  unfold admitRequest
  simp only [hv, ho]

theorem admitRequest_count (hv : r.view = .tally) (ho : r.op = .read) :
    admitRequest p r v s =
      { admitEntry p r.addr .count s with ports := s.ports.set p (.countWait r v s.nextSerial) } := by
  unfold admitRequest
  simp only [hv, ho, State.setPort, admitEntry_ports]

theorem recordLine_loaded {b : Setup} (h : s.config = .loaded b) :
    recordLine s p = some (b.recordBase + BitVec.ofNat 28 (32 * p.index)) := by
  unfold recordLine
  rw [h]
  rfl

theorem admitRequest_claim {b : Setup} (hv : r.view = .claim) (ho : r.op = .write) (hconfig : s.config = .loaded b) :
    admitRequest p r v s =
      admitDecided p r v (decideCode s p r.line) (b.recordBase + BitVec.ofNat 28 (32 * p.index)) (consumeClaim p s) := by
  unfold admitRequest admitClaimWrite
  simp only [hv, ho, recordLine_loaded hconfig]

theorem outcomeContent_consumed (code : OutcomeCode) :
    outcomeContent p code r (consumeClaim p s) = ⟨s.writeCounter.get p + 1, code, r.size, r.addr⟩ := by
  unfold outcomeContent
  rw [consumeClaim_frame, PerPort.get_set_same]

/-- A committed claim write: the Commit, directly behind it the Outcome, and the answer or the wait (R9, R11). -/
theorem admitDecided_committed (rec : Addr) :
    admitDecided p r v .committed rec (consumeClaim p s) =
      { admitEntry p rec (.outcome ⟨s.writeCounter.get p + 1, .committed, r.size, r.addr⟩)
          (admitEntry p r.line (.commit r.mask r.lineData v.attrs.settled) (consumeClaim p s)) with
        ports := s.ports.set p (if v.attrs.settled then .settleWait r v s.nextSerial else .idle)
        outs := if v.attrs.settled then s.outs else s.outs ++ [.response p (.done [])] } := by
  have hserial : (consumeClaim p s).nextSerial = s.nextSerial := by rw [consumeClaim_frame]
  unfold admitDecided
  cases v.attrs.settled <;>
    simp only [if_true, Bool.false_eq_true, if_false, outcomeContent_consumed, answer, State.emit, State.setPort,
      admitEntry_ports, admitEntry_outs, consumeClaim_ports, consumeClaim_outs, hserial]

/-- Any other claim write: the Outcome alone, and the answer (R9, R11). -/
theorem admitDecided_other {code : OutcomeCode} (hcode : code ≠ .committed) (rec : Addr) :
    admitDecided p r v code rec (consumeClaim p s) =
      { admitEntry p rec (.outcome ⟨s.writeCounter.get p + 1, code, r.size, r.addr⟩) (consumeClaim p s) with
        ports := s.ports.set p .idle, outs := s.outs ++ [.response p (.done [])] } := by
  unfold admitDecided
  simp only [if_neg hcode, outcomeContent_consumed, answer, State.emit, State.setPort, admitEntry_ports, admitEntry_outs,
    consumeClaim_ports, consumeClaim_outs]

/-! ### The three ways of a write at its acceptance (R4 to R6) -/

/-- The tail a posted Plain write merges into (R6). -/
theorem merges_iff :
    merges p r v s = true ↔ r.view = .plain ∧ r.op = .write ∧ v.attrs.settled = false ∧
      ∃ front serial m old, s.queue = front ++ [⟨serial, p, r.line, .store m old false, false⟩] := by
  have htail : (match s.queue.getLast? with
      | some e => e.takesMerge p r.line
      | none => false) = true ↔
      ∃ front serial m old, s.queue = front ++ [⟨serial, p, r.line, .store m old false, false⟩] := by
    constructor
    · intro h
      split at h
      next e he =>
        obtain ⟨front, hfront⟩ := List.getLast?_eq_some_iff.mp he
        obtain ⟨serial, port, target, body, issued⟩ := e
        unfold Entry.takesMerge at h
        split at h
        next m old settled hb =>
          simp only [Bool.and_eq_true, Bool.not_eq_true', decide_eq_true_eq] at h
          obtain ⟨⟨⟨hsettled, hport⟩, htarget⟩, hissued⟩ := h
          dsimp only at hb hport htarget hissued
          subst hb hport htarget hissued hsettled
          exact ⟨front, serial, m, old, hfront⟩
        next => cases h
      next => cases h
    · rintro ⟨front, serial, m, old, hq⟩
      simp [hq, Entry.takesMerge]
  unfold merges
  simp only [Bool.and_eq_true, decide_eq_true_eq, Bool.not_eq_true', and_assoc]
  exact and_congr_right fun _ => and_congr_right fun _ => and_congr_right fun _ => htail

theorem mergeIntoTail_append (m : Mask) (d : LineData) (front : List Entry) (e : Entry) :
    mergeIntoTail m d (front ++ [e]) = front ++ [e.withBytes m d] := by
  induction front with
  | nil => rfl
  | cons x xs ih => cases xs <;> simp_all [mergeIntoTail]

theorem takeWrite_admits (hm : merges p r v s = false) (hw : s.waiting = []) (hfit : needFits r.need s = true) :
    takeWrite p r v s = admitRequest p r v s := by
  simp [takeWrite, hm, hw, hfit]

theorem takeWrite_merges (hm : merges p r v s = true) : takeWrite p r v s = mergeRequest p r s := by
  simp [takeWrite, hm]

theorem takeWrite_waits (hm : merges p r v s = false) (h : s.waiting ≠ [] ∨ needFits r.need s = false) :
    takeWrite p r v s = { s with waiting := s.waiting ++ [p], ports := s.ports.set p (.spaceWait r v) } := by
  have hno : ¬ (s.waiting = [] ∧ needFits r.need s = true) := by
    rintro ⟨hw, hfit⟩
    rcases h with h | h
    · exact h hw
    · rw [hfit] at h; cases h
  simp [takeWrite, hm, hno, State.setPort]

theorem exec_of_write {c : Instr} (hc : requestOf c = some (p, r)) (hu : r.usesQueue = true) (hacc : Accepting p s)
    (hcheck : accessCheck (windowTable s.config) p r = .pass v) :
    exec c s = .next (takeWrite p r v (beginEvent s)) := by
  rw [exec_of_passed hc hacc hcheck, acceptPassed_write hu]

/-- A write that does not merge, with nobody waiting and room, is admitted in its own event. -/
theorem exec_of_admitted {c : Instr} {n : Nat} (hn : r.need = n) (hc : requestOf c = some (p, r)) (hu : r.usesQueue = true) (hacc : Accepting p s)
    (hcheck : accessCheck (windowTable s.config) p r = .pass v) (hm : merges p r v s = false) (hw : s.waiting = [])
    (hfit : nonFaultPosts s + n ≤ 14 ∧ s.queue.length + n ≤ 16) :
    exec c s = .next (admitRequest p r v (beginEvent s)) := by
  have hfits : needFits r.need (beginEvent s) = true := (needFits_iff r.need s).mpr (hn ▸ hfit)
  rw [exec_of_write hc hu hacc hcheck, takeWrite_admits (s := beginEvent s) hm hw hfits]

end

theorem ports_idle {p : Port} {s : State} (h : s.ports.get p = .idle) : s.ports.set p .idle = s.ports := by
  rw [← h, PerPort.set_get_same]

/-- The admission of a posted request in its own event, the port Idle as before. -/
theorem admitSettling_posted_idle {p : Port} {r : Request} {v : Verdict} {s : State} (h : s.ports.get p = .idle)
    (target : Addr) (body : EntryBody) :
    admitSettling p r v false target body (beginEvent s) =
      { admitEntry p target body s with outs := [.response p (.done [])] } := by
  rw [admitSettling_posted, beginEvent, admitEntry_withOuts]
  dsimp only
  rw [ports_idle h, List.nil_append, ← admitEntry_ports p target body s]

theorem admitSettling_settled_begin {p : Port} {r : Request} {v : Verdict} {s : State} (target : Addr) (body : EntryBody) :
    admitSettling p r v true target body (beginEvent s) =
      { admitEntry p target body s with ports := s.ports.set p (.settleWait r v s.nextSerial), outs := [] } := by
  rw [admitSettling_settled, beginEvent, admitEntry_withOuts]

theorem admitEntry_lineOf (p : Port) (a : Addr) (body : EntryBody) (s : State) :
    admitEntry p (lineOf a) body s =
      makeVisible (lineOf a)
        { s with queue := s.queue ++ [⟨s.nextSerial, p, lineOf a, body, false⟩], nextSerial := s.nextSerial + 1 } := by
  unfold admitEntry
  rw [lineOf_lineOf]

/-- A merge in its own event, the port Idle as before. -/
theorem mergeRequest_idle {p : Port} {r : Request} {s : State} (h : s.ports.get p = .idle) :
    mergeRequest p r (beginEvent s) =
      { makeVisible r.line { s with queue := mergeIntoTail r.mask r.lineData s.queue } with
        outs := [.response p (.done [])] } := by
  have hvisible := makeVisible_withOuts r.line { s with queue := mergeIntoTail r.mask r.lineData s.queue } []
  unfold mergeRequest beginEvent
  dsimp only at hvisible ⊢
  rw [hvisible]
  simp only [answer, State.setPort, State.emit, List.nil_append, makeVisible_ports, ports_idle h]

theorem merges_false_of_view {p : Port} {r : Request} (v : Verdict) (s : State) (h : r.view ≠ .plain) :
    merges p r v s = false :=
  Bool.eq_false_iff.mpr fun hm => h (merges_iff.mp hm).1

theorem merges_false_of_settled {p : Port} {r : Request} {v : Verdict} (s : State) (h : v.attrs.settled = true) :
    merges p r v s = false := by
  refine Bool.eq_false_iff.mpr fun hm => ?_
  rw [(merges_iff.mp hm).2.2.1] at h
  cases h

theorem writeRequest_line (sel : BitVec 4) (a : Addr) (size : Size) (d : LineData) :
    (writeRequest sel a size d).line = lineOf a := congrArg lineOf (writeRequest_addr sel a size d)

theorem writeRequest_mask (sel : BitVec 4) (a : Addr) (size : Size) (d : LineData) :
    (writeRequest sel a size d).mask = spanMask (offsetOf a) size.bytes := by
  unfold Request.mask
  rw [writeRequest_addr]
  rfl

theorem writeRequest_lineData (sel : BitVec 4) (a : Addr) (size : Size) (d : LineData) :
    (writeRequest sel a size d).lineData = placeBytes d (offsetOf a) size.bytes := by
  unfold Request.lineData
  rw [writeRequest_addr]
  rfl

/-! ### The commands -/

/-- Settles O15: no merge, room, and the admission of a posted Store. -/
theorem postedPlainWriteIsAdmitted : Obligations.PostedPlainWriteIsAdmitted := by
  intro p a size d s v hacc hcheck hset hno hw hlen hposts
  have hline := writeRequest_line selPlain a size d
  have hview : (writeRequest selPlain a size d).view = .plain := by simp
  have hm : merges p (writeRequest selPlain a size d) v s = false := by
    refine Bool.eq_false_iff.mpr fun hm => ?_
    obtain ⟨-, -, -, front, serial, m, old, hq⟩ := merges_iff.mp hm
    rw [hline] at hq
    exact hno front serial m old hq
  rw [exec_of_admitted (c := .plainWrite p a size d) (by simp [need_eq]) rfl (by simp [usesQueue_iff]) hacc hcheck hm hw ⟨hposts, hlen⟩,
    admitRequest_store (.inl hview) rfl, settledStore_plain hview, hset, admitSettling_posted_idle hacc.1, hline,
    writeRequest_mask, writeRequest_lineData, admitEntry_lineOf]

/-- Settles O16: the merge comes before the waiting list and the room are looked at. -/
theorem postedPlainWriteMerges : Obligations.PostedPlainWriteMerges := by
  intro p a size d s v front serial m old hacc hcheck hset hq
  have hline := writeRequest_line selPlain a size d
  have hm : merges p (writeRequest selPlain a size d) v (beginEvent s) = true :=
    merges_iff.mpr ⟨by simp, rfl, hset, front, serial, m, old, by rw [hline]; exact hq⟩
  rw [exec_of_write (c := .plainWrite p a size d) rfl (by simp [usesQueue_iff]) hacc hcheck, takeWrite_merges hm]
  rw [mergeRequest_idle hacc.1, hq, mergeIntoTail_append, hline, writeRequest_mask, writeRequest_lineData]
  rfl

/-- Settles O17: both requests are admitted as settled Stores. -/
theorem settledWritesWaitOnTheirStore : Obligations.SettledWritesWaitOnTheirStore := by
  intro p a size d s v hacc hw hlen hposts
  refine ⟨fun hcheck hset => ?_, fun hcheck => ?_⟩
  · have hview : (writeRequest selPlain a size d).view = .plain := by simp
    rw [exec_of_admitted (c := .plainWrite p a size d) (by simp [need_eq]) rfl (by simp [usesQueue_iff]) hacc hcheck
      (merges_false_of_settled s hset) hw ⟨hposts, hlen⟩, admitRequest_store (.inl hview) rfl, settledStore_plain hview, hset,
      admitSettling_settled_begin, writeRequest_line, writeRequest_mask, writeRequest_lineData, admitEntry_lineOf]
  · have hview : (writeRequest selDirect a size d).view = .direct := by simp
    rw [exec_of_admitted (c := .directWrite p a size d) (by simp [need_eq]) rfl (by simp [usesQueue_iff]) hacc hcheck
      (merges_false_of_view v s (by simp)) hw ⟨hposts, hlen⟩, admitRequest_store (.inr hview) rfl, settledStore_direct hview,
      admitSettling_settled_begin, writeRequest_line, writeRequest_mask, writeRequest_lineData, admitEntry_lineOf]

/-- Settles O19: an Add posted or settled, and a Count. -/
theorem tallyRequestsAreAdmitted : Obligations.TallyRequestsAreAdmitted := by
  intro p a size d s v hacc hw hlen hposts
  have hview : (writeRequest selTally a size d).view = .tally := by simp
  have hadd := fun hcheck => exec_of_admitted (c := .tallyWrite p a size d) (r := writeRequest selTally a size d) (v := v)
      (by simp [need_eq]) rfl
    (by simp [usesQueue_iff]) hacc hcheck (merges_false_of_view v s (by simp)) hw ⟨hposts, hlen⟩
  refine ⟨fun hcheck hset => ?_, fun hcheck hset => ?_, fun hcheck => ?_⟩
  · rw [hadd hcheck, admitRequest_add hview rfl, hset, admitSettling_posted_idle hacc.1, writeRequest_addr]
    rfl
  · rw [hadd hcheck, admitRequest_add hview rfl, hset, admitSettling_settled_begin, writeRequest_addr]
    rfl
  · rw [exec_of_admitted (c := .tallyRead p a size) (r := readRequest selTally a size) (v := v)
      (by simp [need_eq]) rfl
      (by simp [usesQueue_iff]) hacc hcheck (merges_false_of_view v s (by simp)) hw ⟨hposts, hlen⟩,
      admitRequest_count (by simp) rfl, readRequest_addr, beginEvent, admitEntry_withOuts]
    rfl

/-- Settles O18: neither merged nor admitted, the request joins the list. -/
theorem writesWithoutRoomWait : Obligations.WritesWithoutRoomWait := by
  refine ⟨fun c p r s v hc hu hacc hcheck hno hwait => ?_, fun r sel hsel => ?_, fun s => ?_⟩
  · have hm : merges p r v (beginEvent s) = false := by
      refine Bool.eq_false_iff.mpr fun hm => ?_
      obtain ⟨hview, hop, hset, front, serial, m, old, hq⟩ := merges_iff.mp hm
      have hsel : r.upAddr.extractLsb' 28 4 = 0 :=
        BitVec.eq_of_toNat_eq ((viewOf_eq_plain_iff (selectorOf r.upAddr)).mp hview)
      exact hno hsel hop hset front serial m old hq
    rw [exec_of_write hc hu hacc hcheck, takeWrite_waits hm (hwait.imp_right (needFits_false_iff r.need s).mpr)]
    rfl
  · subst hsel
    have hplain := viewOf_eq_plain_iff (selectorOf r.upAddr)
    have hdirect := viewOf_eq_direct_iff (selectorOf r.upAddr)
    have hclaim := viewOf_eq_claim_iff (selectorOf r.upAddr)
    have htally := viewOf_eq_tally_iff (selectorOf r.upAddr)
    refine ⟨?_, ?_⟩
    · rw [usesQueue_iff]
      change ((viewOf (selectorOf r.upAddr) = .plain ∨ viewOf (selectorOf r.upAddr) = .direct
        ∨ viewOf (selectorOf r.upAddr) = .claim) ∧ r.op = .write) ∨ viewOf (selectorOf r.upAddr) = .tally ↔ _
      rw [hplain, hdirect, hclaim, htally]
      refine or_congr (and_congr_left fun _ => ?_) Iff.rfl
      unfold selectorOf
      omega
    · rw [need_eq]
      exact if_congr hclaim rfl rfl
  · unfold nonFaultPosts
    rw [List.countP_eq_length_filter]
    congr 2
    funext e
    unfold Entry.isFaultPost
    cases e.body <;> rfl

theorem decideCode_of_held {p : Port} {s : State} {c : Ix4} {cl : Claim} (h : s.claimStatus.get p = .held c)
    (hcl : s.claimTable.get c = some cl) (line : Addr) :
    decideCode s p line = if cl.line = line then .committed else .notHeld := by
  simp only [decideCode, h, hcl]

theorem consumeClaim_notHeld {p : Port} {s : State} (h : (s.claimStatus.get p).notHeld) :
    consumeClaim p s =
      { s with
        claimStatus := s.claimStatus.set p .none
        writeCounter := s.writeCounter.set p (s.writeCounter.get p + 1) } := by
  have hgive : giveUpClaim p s = s.setStatus p .none := by
    unfold giveUpClaim
    split
    next c hc => exact absurd hc (h c)
    next => rfl
  unfold consumeClaim
  rw [hgive]
  rfl

theorem decideCode_of_lapsedOn {p : Port} {s : State} {reason : LapseReason} {l : Addr}
    (h : s.claimStatus.get p = .lapsed reason l) (line : Addr) :
    decideCode s p line = if l = line then reason.code else .notHeld := by
  simp only [decideCode, h]

/-- Settles O21: the table of the decision. -/
theorem outcomeFollowsClaimStatus : Obligations.OutcomeFollowsClaimStatus := by
  intro p line s
  refine ⟨fun c cl h hcl => decideCode_of_held h hcl line, fun l h => decideCode_of_lapsedOn h line,
    fun l h => decideCode_of_lapsedOn h line, fun l h => decideCode_of_lapsedOn h line,
    fun l h => decideCode_of_lapsedOn h line, fun h => ?_⟩
  simp only [decideCode, h]

theorem withPorts_same {s t : State} (h : t.ports = s.ports) (o : List Output) :
    { t with ports := s.ports, outs := o } = { t with outs := o } := by
  rw [← h]

theorem committed_withOuts (p : Port) (rec line : Addr) (outcome commit : EntryBody) (s : State) :
    admitEntry p rec outcome (admitEntry p line commit (consumeClaim p (beginEvent s))) =
      { admitEntry p rec outcome (admitEntry p line commit (consumeClaim p s)) with outs := [] } := by
  unfold beginEvent
  rw [consumeClaim_withOuts p s [], admitEntry_withOuts p line commit (consumeClaim p s) [],
    admitEntry_withOuts p rec outcome (admitEntry p line commit (consumeClaim p s)) []]

/-- Settles O20: the decision and the consumption, then the entries and the answer. -/
theorem claimWriteIsDecidedAndAdmitted : Obligations.ClaimWriteIsDecidedAndAdmitted := by
  refine ⟨fun p a size d s v b hacc hcheck hconfig hw hlen hposts => ?_, fun p s => ⟨fun c h => ?_, consumeClaim_notHeld⟩⟩
  · have hdecide : ∀ l, decideCode (beginEvent s) p l = decideCode s p l := fun _ => rfl
    have hexec : exec (.claimWrite p a size d) s = .next (admitDecided p (writeRequest selClaim a size d) v
        (decideCode s p (lineOf a)) (b.recordBase + BitVec.ofNat 28 (32 * p.index)) (consumeClaim p (beginEvent s))) := by
      rw [exec_of_admitted (c := .claimWrite p a size d) (r := writeRequest selClaim a size d) (v := v)
      (by simp [need_eq]) rfl
        (by simp [usesQueue_iff]) hacc hcheck (merges_false_of_view v s (by simp)) hw
        ⟨hposts, hlen⟩, admitRequest_claim (s := beginEvent s) (b := b) (by simp) rfl hconfig, writeRequest_line, hdecide]
    refine ⟨fun hcode => ?_, fun hcode => ?_⟩
    · rw [hexec, hcode, admitDecided_committed, writeRequest_line, writeRequest_mask, writeRequest_lineData,
        writeRequest_addr, committed_withOuts]
      cases v.attrs.settled with
      | true => rfl
      | false =>
        dsimp only
        rw [if_neg Bool.false_ne_true, ports_idle (s := beginEvent s) hacc.1]
        rfl
    · rw [hexec, admitDecided_other hcode, writeRequest_addr, beginEvent, consumeClaim_withOuts, admitEntry_withOuts]
      dsimp only
      rw [ports_idle hacc.1, List.nil_append]
      exact congrArg _ (withPorts_same (by rw [admitEntry_ports, consumeClaim_ports]) _)
  · unfold consumeClaim giveUpClaim
    rw [h]
    rfl

end Sys2Proof.Machine
end

section
/-! A pass of the space arbiter (R7, R8): staged faults first, then the first members of the waiting list. -/

namespace Sys2Proof.Machine

open Sys2Proof.Safety

/-! ### The staging and an admission -/

theorem lapseClaim_withStaging (reason : LapseReason) (c : Ix4) (s : State) (x : PerPort (Option FaultContent)) :
    lapseClaim reason c { s with staging := x } = { lapseClaim reason c s with staging := x } := by
  unfold lapseClaim
  cases s.claimTable.get c <;> rfl

theorem breakClaim_withStaging (line : Addr) (c : Ix4) (s : State) (x : PerPort (Option FaultContent)) :
    breakClaim line c { s with staging := x } = { breakClaim line c s with staging := x } := by
  unfold breakClaim
  cases s.claimTable.get c with
  | none => rfl
  | some cl =>
    dsimp only
    split
    · exact lapseClaim_withStaging ..
    · rfl

theorem breakClaims_withStaging (line : Addr) (s : State) (x : PerPort (Option FaultContent)) :
    breakClaims line { s with staging := x } = { breakClaims line s with staging := x } := by
  let put : State → State := fun t => { t with staging := x }
  have hput : ∀ c t, breakClaim line c (put t) = put (breakClaim line c t) := fun c t => breakClaim_withStaging ..
  change breakClaims line (put s) = put (breakClaims line s)
  unfold breakClaims
  rw [hput, hput, hput, hput]

/-- An admission neither reads nor writes the staging (R10). -/
theorem admitEntry_withStaging (p : Port) (target : Addr) (body : EntryBody) (s : State) (x : PerPort (Option FaultContent)) :
    admitEntry p target body { s with staging := x } = { admitEntry p target body s with staging := x } := by
  unfold admitEntry makeVisible
  exact breakClaims_withStaging (lineOf target)
    { s with
      queue := s.queue ++ [⟨s.nextSerial, p, target, body, false⟩]
      nextSerial := s.nextSerial + 1
      lineSets := s.lineSets.map (LineSet.afterAdmission (lineOf target)) } x

theorem admitEntry_staging (p : Port) (target : Addr) (body : EntryBody) (s : State) :
    (admitEntry p target body s).staging = s.staging := by
  rw [admitEntry_frame]

theorem admitEntry_waiting (p : Port) (target : Addr) (body : EntryBody) (s : State) :
    (admitEntry p target body s).waiting = s.waiting := by
  rw [admitEntry_frame]

theorem consumeClaim_staging (p : Port) (s : State) : (consumeClaim p s).staging = s.staging := by
  rw [consumeClaim_frame]

theorem consumeClaim_waiting (p : Port) (s : State) : (consumeClaim p s).waiting = s.waiting := by
  rw [consumeClaim_frame]

/-- Nothing joins or leaves the staging or the waiting list. -/
def SameRoomSide (s t : State) : Prop := t.staging = s.staging ∧ t.waiting = s.waiting

theorem roomSide_admitSettling (p : Port) (r : Request) (v : Verdict) (settled : Bool) (target : Addr) (body : EntryBody)
    (s : State) : SameRoomSide s (admitSettling p r v settled target body s) := by
  cases settled with
  | true =>
    rw [admitSettling_settled]
    exact ⟨admitEntry_staging .., admitEntry_waiting ..⟩
  | false =>
    rw [admitSettling_posted]
    exact ⟨admitEntry_staging .., admitEntry_waiting ..⟩

theorem roomSide_admitClaimWrite (p : Port) (r : Request) (v : Verdict) (s : State) :
    SameRoomSide s (admitClaimWrite p r v s) := by
  unfold admitClaimWrite
  cases recordLine s p with
  | none => exact ⟨consumeClaim_staging p s, consumeClaim_waiting p s⟩
  | some rec =>
    dsimp only
    by_cases hcode : decideCode s p r.line = .committed
    · rw [hcode, admitDecided_committed]
      exact ⟨by simp only [admitEntry_staging, consumeClaim_staging], by simp only [admitEntry_waiting, consumeClaim_waiting]⟩
    · rw [admitDecided_other hcode]
      exact ⟨by simp only [admitEntry_staging, consumeClaim_staging], by simp only [admitEntry_waiting, consumeClaim_waiting]⟩

theorem roomSide_admitRequest (p : Port) (r : Request) (v : Verdict) (s : State) :
    SameRoomSide s (admitRequest p r v s) := by
  unfold admitRequest
  split
  · exact roomSide_admitSettling ..
  · exact roomSide_admitSettling ..
  · exact roomSide_admitClaimWrite ..
  · exact roomSide_admitSettling ..
  · exact ⟨admitEntry_staging .., admitEntry_waiting ..⟩
  · exact ⟨rfl, rfl⟩

/-! ### Staged faults -/

theorem admitFaultPost_unstaged {p : Port} {s : State} (h : s.staging.get p = none) : admitFaultPost p s = s := by
  simp only [admitFaultPost, h]

theorem admitFaultPost_full {s : State} (h : 16 ≤ s.queue.length) (p : Port) : admitFaultPost p s = s := by
  rcases admitFaultPost_cases p s with hsame | ⟨f, rec, -, -, hlen, -⟩
  · exact hsame
  · omega

theorem admitFaultPost_staged {p : Port} {f : FaultContent} {s : State} {b : Setup} (hconfig : s.config = .loaded b)
    (hf : s.staging.get p = some f) (hlen : s.queue.length < 16) :
    admitFaultPost p s =
      admitEntry p (b.recordBase + BitVec.ofNat 28 (32 * p.index)) (.faultPost f)
        { s with staging := s.staging.set p none } := by
  have hfits : occupancy s < Config.queueCapacity := hlen
  simp only [admitFaultPost, hf, recordLine_loaded hconfig, hfits, if_true]
  rfl

theorem foldl_admitFaultPost_same {s : State} {l : List Port} (h : ∀ p ∈ l, admitFaultPost p s = s) :
    l.foldl (fun t p => admitFaultPost p t) s = s := by
  induction l with
  | nil => rfl
  | cons p rest ih =>
    rw [List.foldl_cons, h p (by simp)]
    exact ih fun q hq => h q (by simp [hq])

theorem all_split (p : Port) : ∃ front back, Port.all = front ++ p :: back ∧ ∀ q ∈ front, q.index < p.index := by
  cases p
  exacts [⟨[], [.u1, .u2, .u3, .u4, .u5], rfl, by decide⟩, ⟨[.u0], [.u2, .u3, .u4, .u5], rfl, by decide⟩,
    ⟨[.u0, .u1], [.u3, .u4, .u5], rfl, by decide⟩, ⟨[.u0, .u1, .u2], [.u4, .u5], rfl, by decide⟩,
    ⟨[.u0, .u1, .u2, .u3], [.u5], rfl, by decide⟩, ⟨[.u0, .u1, .u2, .u3, .u4], [], rfl, by decide⟩]

/-- The lowest-numbered port with faults staged gives its FaultPost, and the pass goes on from there: the ports up to it have
nothing staged then. -/
theorem spacePass_admits_fault {p : Port} {f : FaultContent} {s : State} {b : Setup} (hconfig : s.config = .loaded b)
    (hf : s.staging.get p = some f) (hlower : ∀ q, q.index < p.index → s.staging.get q = none)
    (hlen : s.queue.length < 16) :
    spacePass s = spacePass
      (admitEntry p (b.recordBase + BitVec.ofNat 28 (32 * p.index)) (.faultPost f)
        { s with staging := s.staging.set p none }) := by
  have hstep := admitFaultPost_staged hconfig hf hlen
  generalize ht : admitEntry p (b.recordBase + BitVec.ofNat 28 (32 * p.index)) (.faultPost f)
    { s with staging := s.staging.set p none } = t at hstep ⊢
  have hstaging : t.staging = s.staging.set p none := by rw [← ht, admitEntry_staging]
  obtain ⟨front, back, hall, hfront⟩ := all_split p
  have hnone : ∀ q, q.index ≤ p.index → t.staging.get q = none := by
    intro q hq
    rw [hstaging, PerPort.get_set]
    split
    · rfl
    next hne =>
      have hindex : q.index ≠ p.index := fun h => hne (by revert h; cases q <;> cases p <;> decide)
      exact hlower q (by omega)
  have hfaults : admitFaultPosts s = admitFaultPosts t := by
    unfold admitFaultPosts
    rw [hall, List.foldl_append, List.foldl_append, List.foldl_cons, List.foldl_cons,
      foldl_admitFaultPost_same fun q hq => admitFaultPost_unstaged (hlower q (hfront q hq)),
      foldl_admitFaultPost_same fun q hq => admitFaultPost_unstaged (hnone q (Nat.le_of_lt (hfront q hq))),
      hstep, admitFaultPost_unstaged (hnone p (Nat.le_refl _))]
  unfold spacePass
  rw [hfaults]

/-! ### The waiting list -/

/-- Nothing is staged, or no FaultPost finds room: the first step of a pass admits nothing. -/
def NoFaultFits (s : State) : Prop := (∀ p, s.staging.get p = none) ∨ 16 ≤ s.queue.length

theorem spacePass_noFaultFits {s : State} (h : NoFaultFits s) : spacePass s = serveWaiting s.waiting s := by
  have hfaults : admitFaultPosts s = s := foldl_admitFaultPost_same fun p _ =>
    h.elim (fun hnone => admitFaultPost_unstaged (hnone p)) fun hfull => admitFaultPost_full hfull p
  unfold spacePass
  rw [hfaults]

section
variable {s : State} {p : Port} {rest : List Port} {r : Request} {v : Verdict}

/-- The first member is admitted while its need fits, and the pass goes on with the next. -/
theorem spacePass_admits_first (h : NoFaultFits s) (hw : s.waiting = p :: rest) (hp : s.ports.get p = .spaceWait r v)
    (hfit : nonFaultPosts s + r.need ≤ 14 ∧ s.queue.length + r.need ≤ 16) :
    spacePass s = spacePass (admitRequest p r v { s with waiting := rest }) := by
  obtain ⟨hstaging, hwaiting⟩ := roomSide_admitRequest p r v { s with waiting := rest }
  have hneed : 0 < r.need := by
    rw [need_eq]
    split <;> decide
  have hnone : ∀ q, s.staging.get q = none := h.resolve_right (by omega)
  rw [spacePass_noFaultFits h, spacePass_noFaultFits (.inl fun q => by rw [hstaging]; exact hnone q), hwaiting, hw]
  simp only [serveWaiting, hp, (needFits_iff r.need s).mpr hfit, if_true]

/-- A first member whose need does not fit ends the pass. -/
theorem spacePass_stops (h : NoFaultFits s) (hw : s.waiting = p :: rest) (hp : s.ports.get p = .spaceWait r v)
    (hno : 14 < nonFaultPosts s + r.need ∨ 16 < s.queue.length + r.need) : spacePass s = s := by
  rw [spacePass_noFaultFits h, hw]
  simp only [serveWaiting, hp, (needFits_false_iff r.need s).mpr hno]
  rw [if_neg Bool.false_ne_true, ← hw]

theorem spacePass_noWaiter (h : NoFaultFits s) (hw : s.waiting = []) : spacePass s = s := by
  rw [spacePass_noFaultFits h, hw, serveWaiting, ← hw]

/-- A port that still waits keeps the drain from its end, and a quiet device has nothing to accept. -/
theorem finishEvent_stillWaits (hp : s.ports.get p = .spaceWait r v) (h : Quiet s ∨ s.mode = .draining) :
    finishEvent s = s := by
  rcases h with h | h
  · exact finishEvent_serving s h.1 h.2
  · have hdrain : ¬ drainComplete s = true := by
      rw [drainComplete_iff s h]
      rintro ⟨⟨hports, -⟩, -⟩
      rcases hports p with hidle | hreset
      · rw [hp] at hidle; cases hidle
      · rw [hp] at hreset; cases hreset
    rw [finishEvent_notServing s (by rw [h]; nofun), drainTest_draining s h, if_neg hdrain]

end

theorem exec_spaceArbiterPass (s : State) :
    exec .spaceArbiterPass s = .next (finishEvent (spacePass { s with outs := [] })) := rfl

/-! ### Two staged ports in one pass -/

/-- Both FaultPosts in port order, the waiting list untouched. -/
theorem spacePass_two_faults {p q : Port} {f g : FaultContent} {s : State} {b : Setup} (hconfig : s.config = .loaded b)
    (hpq : p.index < q.index) (hf : s.staging.get p = some f) (hg : s.staging.get q = some g)
    (hothers : ∀ x, x ≠ p → x ≠ q → s.staging.get x = none) (hlen : s.queue.length + 2 ≤ 16) :
    spacePass s = spacePass
      (admitEntry q (b.recordBase + BitVec.ofNat 28 (32 * q.index)) (.faultPost g)
        (admitEntry p (b.recordBase + BitVec.ofNat 28 (32 * p.index)) (.faultPost f)
          { s with staging := (s.staging.set p none).set q none })) := by
  have hne : q ≠ p := by rintro rfl; omega
  rw [spacePass_admits_fault hconfig hf (fun x hx => hothers x (by rintro rfl; omega) (by rintro rfl; omega)) (by omega)]
  generalize ht : admitEntry p (b.recordBase + BitVec.ofNat 28 (32 * p.index)) (.faultPost f)
    { s with staging := s.staging.set p none } = t
  have hstaging : t.staging = s.staging.set p none := by rw [← ht, admitEntry_staging]
  have hboth : admitEntry p (b.recordBase + BitVec.ofNat 28 (32 * p.index)) (.faultPost f)
      { s with staging := (s.staging.set p none).set q none } = { t with staging := (s.staging.set p none).set q none } := by
    rw [← ht]
    exact admitEntry_withStaging _ _ _ { s with staging := s.staging.set p none } _
  have hlower : ∀ x, x.index < q.index → t.staging.get x = none := by
    intro x hx
    rw [hstaging, PerPort.get_set]
    split
    · rfl
    next hxp => exact hothers x hxp (by rintro rfl; omega)
  rw [spacePass_admits_fault (s := t) (p := q) (f := g) (b := b) (by rw [← ht, admitEntry_frame]; exact hconfig)
    (by rw [hstaging, PerPort.get_set_other _ _ hne]; exact hg) hlower
    (by rw [← ht, admitEntry_queue]; simp; omega), hboth, hstaging]

/-- A FaultPost's admission takes room of the queue alone: it counts for no port (R3). -/
theorem admitFault_keeps (p : Port) (rec : Addr) (f : FaultContent) (s : State) :
    (admitEntry p rec (.faultPost f) s).ports = s.ports ∧ (admitEntry p rec (.faultPost f) s).mode = s.mode
      ∧ (admitEntry p rec (.faultPost f) s).links = s.links
      ∧ (admitEntry p rec (.faultPost f) s).queue.length = s.queue.length + 1
      ∧ nonFaultPosts (admitEntry p rec (.faultPost f) s) = nonFaultPosts s := by
  refine ⟨admitEntry_ports .., ?_, ?_, ?_, nonFaultPosts_append (admitEntry_queue ..)⟩
  · rw [admitEntry_frame]
  · rw [admitEntry_frame]
  · rw [admitEntry_queue, List.length_append, List.length_singleton]

/-- A waiter behind two staged ports, in one pass: admitted when its need fits behind both FaultPosts, and otherwise the pass
ends with them. -/
theorem exec_pass_two_faults {p q w : Port} {f g : FaultContent} {rest : List Port} {r : Request} {v : Verdict} {s t : State}
    {b : Setup} (hconfig : s.config = .loaded b) (hpq : p.index < q.index) (hf : s.staging.get p = some f)
    (hg : s.staging.get q = some g) (hothers : ∀ x, x ≠ p → x ≠ q → s.staging.get x = none) (hw : s.waiting = w :: rest)
    (hp : s.ports.get w = .spaceWait r v) (hlen : s.queue.length + 2 ≤ 16)
    (ht : t = admitEntry q (b.recordBase + BitVec.ofNat 28 (32 * q.index)) (.faultPost g)
      (admitEntry p (b.recordBase + BitVec.ofNat 28 (32 * p.index)) (.faultPost f)
        { s with outs := [], staging := (s.staging.set p none).set q none })) :
    (nonFaultPosts s + r.need ≤ 14 ∧ s.queue.length + 2 + r.need ≤ 16 →
      exec .spaceArbiterPass s = .next (finishEvent (spacePass (admitRequest w r v { t with waiting := rest }))))
    ∧ ((14 < nonFaultPosts s + r.need ∨ 16 < s.queue.length + 2 + r.need) → Quiet s ∨ s.mode = .draining →
      exec .spaceArbiterPass s = .next t) := by
  have hpass : spacePass { s with outs := [] } = spacePass t := by
    rw [ht]
    exact spacePass_two_faults (s := { s with outs := [] }) hconfig hpq hf hg hothers hlen
  have hwaiting : t.waiting = w :: rest := by rw [ht, admitEntry_waiting, admitEntry_waiting]; exact hw
  have hstaging : ∀ x, t.staging.get x = none := by
    intro x
    rw [ht, admitEntry_staging, admitEntry_staging, PerPort.get_set, PerPort.get_set]
    split
    · rfl
    next hxq =>
      split
      · rfl
      next hxp => exact hothers x hxp hxq
  obtain ⟨hports, hmode, hlinks, hqueue, hposts⟩ : t.ports = s.ports ∧ t.mode = s.mode ∧ t.links = s.links
      ∧ t.queue.length = s.queue.length + 2 ∧ nonFaultPosts t = nonFaultPosts s := by
    obtain ⟨hports1, hmode1, hlinks1, hqueue1, hposts1⟩ := admitFault_keeps p
      (b.recordBase + BitVec.ofNat 28 (32 * p.index)) f { s with outs := [], staging := (s.staging.set p none).set q none }
    obtain ⟨hports2, hmode2, hlinks2, hqueue2, hposts2⟩ := admitFault_keeps q
      (b.recordBase + BitVec.ofNat 28 (32 * q.index)) g (admitEntry p (b.recordBase + BitVec.ofNat 28 (32 * p.index))
        (.faultPost f) { s with outs := [], staging := (s.staging.set p none).set q none })
    rw [← ht] at hports2 hmode2 hlinks2 hqueue2 hposts2
    exact ⟨hports2.trans hports1, hmode2.trans hmode1, hlinks2.trans hlinks1, hqueue2.trans (by rw [hqueue1]),
      hposts2.trans hposts1⟩
  have hwaiter : t.ports.get w = .spaceWait r v := by rw [hports]; exact hp
  refine ⟨fun hfit => ?_, fun hnofit hend => ?_⟩
  · rw [exec_spaceArbiterPass, hpass, spacePass_admits_first (.inl hstaging) hwaiting hwaiter (by omega)]
  · have hend' : Quiet t ∨ t.mode = .draining := by
      unfold Quiet at hend ⊢
      rw [hmode, hlinks]
      exact hend
    rw [exec_spaceArbiterPass, hpass, spacePass_stops (.inl hstaging) hwaiting hwaiter (by omega),
      finishEvent_stillWaits hwaiter hend']

/-- A Store of either view that makes one, settled by the window or by the view (R2). -/
theorem admitRequest_store_of_selector {p : Port} {r : Request} {v : Verdict} {s : State} {settled : Bool}
    (hsel : ((selectorOf r.upAddr).toNat = 0 ∧ settled = v.attrs.settled) ∨ ((selectorOf r.upAddr).toNat = 1 ∧ settled = true))
    (ho : r.op = .write) :
    admitRequest p r v s = admitSettling p r v settled r.line (.store r.mask r.lineData settled) s := by
  rcases hsel with ⟨hsel, hset⟩ | ⟨hsel, hset⟩
  · have hplain : r.view = .plain := (viewOf_eq_plain_iff _).mpr hsel
    rw [admitRequest_store (.inl hplain) ho, settledStore_plain hplain, ← hset]
  · have hdirect : r.view = .direct := (viewOf_eq_direct_iff _).mpr hsel
    rw [admitRequest_store (.inr hdirect) ho, settledStore_direct hdirect, ← hset]

/-- Settles O25: the pass's recursion, its ends, two staged ports with a waiter, and what an admission by the arbiter makes. -/
theorem passAdmitsFaultsAndFirstWaiters : Obligations.PassAdmitsFaultsAndFirstWaiters := by
  refine ⟨fun s => ⟨rfl, rfl⟩, fun p f s b => spacePass_admits_fault, fun s hno => ⟨fun p rest r v hw hp => ⟨fun hfit => ?_,
    fun hnofit => ?_⟩, fun hw => ⟨spacePass_noWaiter hno hw, fun hq => ?_, fun hm => ?_⟩⟩,
    fun p q w f g rest r v s t b => exec_pass_two_faults, ?_⟩
  · refine ⟨spacePass_admits_first hno hw hp hfit, ?_⟩
    rw [exec_spaceArbiterPass, spacePass_admits_first (s := { s with outs := [] }) hno hw hp hfit]
  · refine ⟨spacePass_stops hno hw hp hnofit, fun hend => ?_⟩
    rw [exec_spaceArbiterPass, spacePass_stops (s := { s with outs := [] }) hno hw hp hnofit,
      finishEvent_stillWaits (s := { s with outs := [] }) hp hend]
  · rw [exec_spaceArbiterPass, spacePass_noWaiter (s := { s with outs := [] }) hno hw]
    exact congrArg _ (finishEvent_serving _ hq.1 hq.2)
  · rw [exec_spaceArbiterPass, spacePass_noWaiter (s := { s with outs := [] }) hno hw, exec_drainCompletion,
      finishEvent_notServing _ (by rw [hm]; nofun)]
    rfl
  · rintro p r v s sel a rfl rfl
    refine ⟨fun settled body hsel hop hbody => ?_, fun hsel hop => ?_, fun hsel hop => ?_,
      fun b rec hsel hop hconfig hrec => ?_⟩
    · have hstore := admitRequest_store_of_selector (p := p) (s := s) hsel hop
      subst hbody
      refine ⟨fun h => ?_, fun h => ?_⟩
      · subst h
        exact hstore.trans (admitSettling_posted _ _)
      · subst h
        exact hstore.trans (admitSettling_settled _ _)
    · have hadd := admitRequest_add (p := p) (v := v) (s := s) ((viewOf_eq_tally_iff _).mpr hsel) hop
      refine ⟨fun h => ?_, fun h => ?_⟩
      · rw [h] at hadd
        exact hadd.trans (admitSettling_posted _ _)
      · rw [h] at hadd
        exact hadd.trans (admitSettling_settled _ _)
    · exact admitRequest_count ((viewOf_eq_tally_iff _).mpr hsel) hop
    · have hdecided := admitRequest_claim (p := p) (v := v) ((viewOf_eq_claim_iff _).mpr hsel) hop hconfig
      rw [← hrec] at hdecided
      refine ⟨fun hcode => ?_, fun hcode => ?_⟩
      · have hcode' : decideCode s p r.line = .committed := hcode
        rw [hcode'] at hdecided
        exact hdecided.trans (admitDecided_committed _)
      · exact hdecided.trans (admitDecided_other hcode _)

end Sys2Proof.Machine
end

section
/-! Grants (R83, R86, R91 to R98): the candidates and the urge in the manual's terms, the slot and its tag, and what the grant
of each candidate changes. -/

namespace Sys2Proof.Machine

open Sys2Proof.Safety

/-! ### Slots and generations (R85, R86, R94) -/

theorem isFree_iff (sl : Slot) : sl.isFree = true ↔ sl.occupant = none ∧ ∃ g, sl.stale.get g = false := by
  simp [Slot.isFree, Slot.allStale]

theorem isFree_false_iff (sl : Slot) : sl.isFree = false ↔ sl.occupant ≠ none ∨ ∀ g, sl.stale.get g = true := by
  rw [← Bool.not_eq_true, isFree_iff, not_and_or]
  simp only [not_exists, Bool.not_eq_false, ne_eq]

theorem lowestFreeSlot_iff (s : State) (i : Ix4) :
    lowestFreeSlot s = some i ↔
      ((s.slots.get i).occupant = none ∧ ∃ g, (s.slots.get i).stale.get g = false)
        ∧ ∀ j ∈ Ix4.all.takeWhile fun x => decide (x ≠ i),
          (s.slots.get j).occupant ≠ none ∨ ∀ g, (s.slots.get j).stale.get g = true := by
  simp only [lowestFreeSlot, find?_ix4, isFree_iff, isFree_false_iff]

theorem lowestFreeSlot_none_iff (s : State) :
    lowestFreeSlot s = none ↔ ∀ i, (s.slots.get i).occupant ≠ none ∨ ∀ g, (s.slots.get i).stale.get g = true := by
  simp only [lowestFreeSlot, find?_ix4_none, isFree_false_iff]

theorem issueIn_eq (i : Ix4) (ow : Owner) (req : MemRequest) (s : State) :
    issueIn i ow req s =
      { s with
        slots := s.slots.set i
          { s.slots.get i with
            occupant := some ⟨ow, req, (s.slots.get i).chooseGen, timeoutOf s⟩
            nextGen := (s.slots.get i).chooseGen.next }
        outs := s.outs ++ [.request ⟨i, (s.slots.get i).chooseGen⟩ req] } := rfl

/-! ### Candidates (R91 to R93) -/

theorem readInFlight_false_iff (l : Addr) (s : State) :
    readInFlight l s = false ↔
      ∀ i o, (s.slots.get i).occupant = some o → o.owner.countsAsRead = true → memRequestLine o.req ≠ l := by
  refine ⟨fun h i o ho hr => readInFlight_spec h ho hr, fun h => ?_⟩
  unfold readInFlight
  rw [List.any_eq_false]
  intro i _
  cases ho : (s.slots.get i).occupant with
  | none => exact Bool.false_ne_true
  | some o => simpa using h i o ho

theorem queueInFlight_false_iff (s : State) :
    queueInFlight s = false ↔ ∀ i o, (s.slots.get i).occupant = some o → o.owner.ofQueue = false := by
  rw [← Bool.not_eq_true, queueInFlight_iff]
  simp only [not_exists, not_and, Bool.not_eq_true]

theorem headCandidate_iff (s : State) (e : Entry) :
    headCandidate s = some e ↔
      s.queue.head? = some e ∧ e.issued = false
        ∧ ∀ j o, (s.slots.get j).occupant = some o →
          o.owner.ofQueue = false ∧ (o.owner.countsAsRead = true → memRequestLine o.req ≠ e.line) := by
  have hflight : (queueInFlight s = false ∧ readInFlight e.line s = false) ↔
      ∀ j o, (s.slots.get j).occupant = some o →
        o.owner.ofQueue = false ∧ (o.owner.countsAsRead = true → memRequestLine o.req ≠ e.line) := by
    rw [queueInFlight_false_iff, readInFlight_false_iff]
    exact ⟨fun ⟨hq, hr⟩ j o ho => ⟨hq j o ho, hr j o ho⟩, fun h => ⟨fun j o ho => (h j o ho).1, fun j o ho => (h j o ho).2⟩⟩
  rw [← hflight]
  refine ⟨headCandidate_spec, fun ⟨hq, hcond⟩ => ?_⟩
  simp only [headCandidate, hq, if_pos hcond]

theorem waitingDemand_iff (p : Port) (s : State) (o : Offer) :
    waitingDemand p s = some o ↔
      (∃ r v e l f, s.ports.get p = .readWait r v (.fill e) ∧ (s.lineSets.get p).entries.get e = .filling l f
        ∧ f.cls = .demand ∧ f.issued = false ∧ o = ⟨.fill p e, .read .b32 l⟩)
      ∨ ∃ r v, s.ports.get p = .readWait r v (.pass false) ∧ o = ⟨.pass p, .read r.size r.addr⟩ := by
  constructor
  · intro h
    unfold waitingDemand at h
    split at h
    next r v e hport =>
      split at h
      next l f hentry =>
        split at h
        next hf => cases h; exact .inl ⟨r, v, e, l, f, hport, hentry, hf.1, hf.2, rfl⟩
        next => cases h
      next => cases h
    next r v hport => cases h; exact .inr ⟨r, v, hport, rfl⟩
    next => cases h
  · rintro (⟨r, v, e, l, f, hport, hentry, hcls, hissued, rfl⟩ | ⟨r, v, hport, rfl⟩)
    · simp [waitingDemand, hport, hentry, hcls, hissued]
    · simp [waitingDemand, hport]

theorem demandCandidate_iff (p : Port) (s : State) :
    demandCandidate p s = true ↔ ∃ o, waitingDemand p s = some o ∧ ∀ x ∈ s.queue, x.line ≠ memRequestLine o.req := by
  unfold demandCandidate
  cases waitingDemand p s with
  | none => simp
  | some o => simp [Offer.isHeld, queueHolds]

theorem demandHeld_iff (p : Port) (s : State) :
    demandHeld p s = true ↔ ∃ o, waitingDemand p s = some o ∧ ∃ x ∈ s.queue, x.line = memRequestLine o.req := by
  unfold demandHeld
  cases waitingDemand p s with
  | none => simp
  | some o => simp [Offer.isHeld, queueHolds]

theorem waitingPrefetch?_isSome_iff (x : LineEntry) :
    x.waitingPrefetch?.isSome = true ↔ ∃ l f, x = .filling l f ∧ f.cls = .prefetch ∧ f.issued = false := by
  cases x with
  | filling l f =>
    by_cases h : f.cls = .prefetch ∧ f.issued = false
    · simp [LineEntry.waitingPrefetch?, h]
    · simp only [LineEntry.waitingPrefetch?, if_neg h, Option.isSome_none, Bool.false_eq_true, false_iff]
      rintro ⟨l', f', heq, hf⟩
      cases heq
      exact h hf
  | _ => simp [LineEntry.waitingPrefetch?]

theorem waitingPrefetch_iff (ls : LineSet) (e : Ix4) (waits : Ix4 → Prop)
    (hwaits : ∀ x, waits x ↔ ∃ l f, ls.entries.get x = .filling l f ∧ f.cls = .prefetch ∧ f.issued = false) :
    ls.waitingPrefetch = some e ↔ waits e ∧ ∀ x ∈ Ix4.all.takeWhile fun y => decide (y ≠ e), ¬ waits x := by
  simp only [LineSet.waitingPrefetch, find?_ix4, hwaits, ← waitingPrefetch?_isSome_iff, Bool.not_eq_true]

/-! ### The urge (R95) and the round robin (R96) -/

theorem waitsOnEntry_iff (x : PortState) : x.waitsOnEntry = true ↔ ∃ r v n, x = .settleWait r v n ∨ x = .countWait r v n := by
  cases x <;> simp [PortState.waitsOnEntry]

theorem urgeCondition_iff (s : State) :
    urgeCondition s = true ↔
      urgeOf s.config ≤ s.queue.length
        ∨ (∃ p r v n, s.ports.get p = .settleWait r v n ∨ s.ports.get p = .countWait r v n)
        ∨ ∃ p o, waitingDemand p s = some o ∧ ∃ x ∈ s.queue, x.line = memRequestLine o.req := by
  simp only [urgeCondition, Bool.or_eq_true, decide_eq_true_eq, List.any_eq_true, Port.mem_all, true_and, waitsOnEntry_iff,
    demandHeld_iff, or_assoc]
  exact Iff.rfl

theorem urgedHead_iff (s : State) (e : Entry) :
    urgedHead s = some e ↔ headCandidate s = some e ∧ urgeCondition s = true := by
  unfold urgedHead
  split
  next h => simp [h]
  next h => simp [h]

/-- The ports from the one after the pointer on. -/
def portsAfter (pointer : Port) : List Port :=
  [pointer.next, pointer.next.next, pointer.next.next.next, pointer.next.next.next.next,
    pointer.next.next.next.next.next, pointer]

theorem mem_portsAfter (pointer p : Port) : p ∈ portsAfter pointer := by
  cases pointer <;> cases p <;> decide

/-- The ports tried before p are those nearer to the pointer. -/
theorem mem_portsAfter_before (pointer p q : Port) :
    q ∈ (portsAfter pointer).takeWhile (fun x => decide (x ≠ p)) ↔
      (q.index + (5 - pointer.index)) % 6 < (p.index + (5 - pointer.index)) % 6 := by
  cases pointer <;> cases p <;> cases q <;> decide

theorem roundRobin_iff (pointer : Port) (has : Port → Bool) (p : Port) :
    roundRobin pointer has = some p ↔
      has p = true ∧ ∀ q : Port, (q.index + (5 - pointer.index)) % 6 < (p.index + (5 - pointer.index)) % 6 → has q = false := by
  simp only [← mem_portsAfter_before]
  exact find?_eq_some_iff_takeWhile has p (portsAfter pointer) (mem_portsAfter pointer p)

theorem roundRobin_none_iff (pointer : Port) (has : Port → Bool) : roundRobin pointer has = none ↔ ∀ p, has p = false := by
  refine List.find?_eq_none.trans ⟨fun h p => ?_, fun h p _ => by simp [h p]⟩
  simpa using h p (mem_portsAfter pointer p)

/-! ### The choice (R94, R98) and its issue -/

section
variable {s : State} {i : Ix4}

theorem exec_grant_of_choice {c : Choice} (hi : lowestFreeSlot s = some i) (hc : grantChoice s = some c) :
    exec .grant s = .next (issueChoice i c (beginEvent s)) := by
  have hslot : lowestFreeSlot (beginEvent s) = some i := hi
  have hchoice : grantChoice (beginEvent s) = some c := hc
  change Host.Outcome.next (grantOnce (beginEvent s)) = _
  unfold grantOnce
  rw [hslot, hchoice]

theorem exec_grant_of_nothing (h : lowestFreeSlot s = none ∨ grantChoice s = none) :
    exec .grant s = .next { s with outs := [] } := by
  change Host.Outcome.next (grantOnce (beginEvent s)) = _
  unfold grantOnce
  split
  next i' c hi hc =>
    have hi' : lowestFreeSlot s = some i' := hi
    have hc' : grantChoice s = some c := hc
    rw [hi', hc'] at h
    exact absurd h (by simp)
  next => rfl

theorem grantChoice_loading (hm : s.mode = .loading) :
    grantChoice s = if s.loader.offered then some .loader else none := if_pos hm

/-- An urged head comes first; a head that is not comes before the prefetches, when no demand read is a candidate. -/
theorem grantChoice_head {e : Entry} (hm : s.mode ≠ .loading) (hhead : headCandidate s = some e)
    (h : urgeCondition s = true ∨ ∀ p, demandCandidate p s = false) : grantChoice s = some (.head e) := by
  unfold grantChoice
  rw [if_neg hm]
  unfold urgedHead
  by_cases hu : urgeCondition s = true
  · rw [if_pos hu, hhead]
  · have hnone := (roundRobin_none_iff s.demandPtr fun p => demandCandidate p s).mpr (h.resolve_left hu)
    rw [if_neg hu, hnone, hhead]

theorem grantChoice_demand {p : Port} (hm : s.mode ≠ .loading) (hu : urgedHead s = none)
    (hp : roundRobin s.demandPtr (fun q => demandCandidate q s) = some p) : grantChoice s = some (.demand p) := by
  unfold grantChoice
  rw [if_neg hm, hu, hp]

theorem grantChoice_prefetch {p : Port} (hm : s.mode ≠ .loading) (hu : urgedHead s = none)
    (hd : roundRobin s.demandPtr (fun q => demandCandidate q s) = none) (hhead : headCandidate s = none)
    (hp : roundRobin s.prefetchPtr (fun q => prefetchCandidate q s) = some p) : grantChoice s = some (.prefetch p) := by
  unfold grantChoice
  rw [if_neg hm, hu, hd, hhead, hp]

theorem issueHead_eq {e : Entry} {rest : List Entry} (hq : s.queue = e :: rest) :
    issueHead i e s =
      { s with
        queue := { e with issued := true } :: rest
        engine := e.engineAtIssue s.engine
        slots := s.slots.set i
          { s.slots.get i with
            occupant := some ⟨e.body.issueOwner, e.issueRequest, (s.slots.get i).chooseGen, timeoutOf s⟩
            nextGen := (s.slots.get i).chooseGen.next }
        outs := s.outs ++ [.request ⟨i, (s.slots.get i).chooseGen⟩ e.issueRequest] } := by
  unfold issueHead markHeadIssued
  rw [hq]
  rfl

theorem issueDemand_fill {p : Port} {r : Request} {v : Verdict} {e : Ix4} {l : Addr} {f : Fill}
    (hport : s.ports.get p = .readWait r v (.fill e)) (hentry : (s.lineSets.get p).entries.get e = .filling l f)
    (hcls : f.cls = .demand) (hissued : f.issued = false) :
    issueDemand i p s =
      issueIn i (.fill p e) (.read .b32 l)
        { s.setLineSet p ((s.lineSets.get p).setEntry e (.filling l { f with issued := true })) with demandPtr := p } := by
  have hwaits := (waitingDemand_iff p s ⟨.fill p e, .read .b32 l⟩).mpr
    (.inl ⟨r, v, e, l, f, hport, hentry, hcls, hissued, rfl⟩)
  simp only [issueDemand, hwaits, markDemandIssued, hport, hentry, LineEntry.issueFill]

theorem issueDemand_pass {p : Port} {r : Request} {v : Verdict} (hport : s.ports.get p = .readWait r v (.pass false)) :
    issueDemand i p s =
      issueIn i (.pass p) (.read r.size r.addr)
        { s.setPort p (.readWait r v (.pass true)) with demandPtr := p } := by
  have hwaits := (waitingDemand_iff p s ⟨.pass p, .read r.size r.addr⟩).mpr (.inr ⟨r, v, hport, rfl⟩)
  simp only [issueDemand, hwaits, markDemandIssued, hport]

theorem issuePrefetch_eq {p : Port} {e : Ix4} {l : Addr} {f : Fill} (he : (s.lineSets.get p).waitingPrefetch = some e)
    (hentry : (s.lineSets.get p).entries.get e = .filling l f) :
    issuePrefetch i p s =
      issueIn i (.fill p e) (.read .b32 l)
        { s.setLineSet p ((s.lineSets.get p).setEntry e (.filling l { f with issued := true })) with prefetchPtr := p } := by
  simp only [issuePrefetch, he, hentry, LineEntry.line?, LineEntry.issueFill]

end

/-- Settles O26: the head is the choice, and its issue by kind. -/
theorem grantIssuesTheHead : Obligations.GrantIssuesTheHead := by
  refine ⟨fun i e rest s hi hm hq hissued hops hurge => ?_, fun e => rfl, fun sl => ⟨fun h0 => ?_, fun h0 h1 => ?_,
    fun h0 h1 h2 => ?_, fun h0 h1 h2 => ?_⟩, fun s => ⟨lowestFreeSlot_iff s, lowestFreeSlot_none_iff s⟩⟩
  · have hhead : headCandidate s = some e := (headCandidate_iff s e).mpr ⟨by rw [hq]; rfl, hissued, hops⟩
    have hchosen : urgeCondition s = true ∨ ∀ p, demandCandidate p s = false := by
      rw [urgeCondition_iff]
      simpa only [or_assoc] using hurge
    rw [exec_grant_of_choice hi (grantChoice_head hm hhead hchosen)]
    refine congrArg _ ((issueHead_eq (s := beginEvent s) hq).trans ?_)
    obtain ⟨serial, port, target, body, issued⟩ := e
    cases body <;> rfl
  · simp [Slot.chooseGen, h0]
  · simp [Slot.chooseGen, h0, h1]
  · simp [Slot.chooseGen, h0, h1, h2]
  · simp [Slot.chooseGen, h0, h1, h2]

theorem ofQueue_iff (ow : Owner) : ow.ofQueue = true ↔ ow = .lineWrite ∨ ow = .readPhase ∨ ow = .writePhase := by
  cases ow <;> simp [Owner.ofQueue]

theorem countsAsRead_iff (ow : Owner) :
    ow.countsAsRead = true ↔ (∃ p e, ow = .fill p e) ∨ (∃ p, ow = .pass p) ∨ ow = .discarded := by
  cases ow <;> simp [Owner.countsAsRead]

/-- Settles O27: the two round robins, and their candidates spelled out. -/
theorem grantIssuesReadsRoundRobin : Obligations.GrantIssuesReadsRoundRobin := by
  refine ⟨fun i s hi hm hu => ⟨fun p hp => ⟨fun r v e l f hport hentry => ?_, fun r v issued hport => ?_⟩,
      fun p e l f hd hhead hp he hentry => ?_⟩,
    fun pointer has => ⟨roundRobin_iff pointer has, roundRobin_none_iff pointer has⟩,
    fun p s => ⟨waitingDemand_iff p s, demandCandidate_iff p s, Option.isSome_iff_exists⟩, waitingPrefetch_iff,
    fun s e => ⟨headCandidate_iff s e, (urgedHead_iff s e).trans (and_congr_right fun _ => urgeCondition_iff s)⟩,
    fun ow => ⟨ofQueue_iff ow, countsAsRead_iff ow⟩, fun size a m d => ⟨rfl, rfl⟩⟩
  · obtain ⟨o, ho, -⟩ := (demandCandidate_iff p s).mp (roundRobin_spec hp)
    have hwaits : f.cls = .demand ∧ f.issued = false := by
      rcases (waitingDemand_iff p s o).mp ho with ⟨r', v', e', l', f', hport', hentry', hcls, hissued, -⟩ | ⟨r', v', hport', -⟩
      · rw [hport] at hport'
        cases hport'
        rw [hentry] at hentry'
        cases hentry'
        exact ⟨hcls, hissued⟩
      · rw [hport] at hport'
        cases hport'
    rw [exec_grant_of_choice hi (grantChoice_demand hm hu hp)]
    exact congrArg _ (issueDemand_fill (s := beginEvent s) hport hentry hwaits.1 hwaits.2)
  · obtain ⟨o, ho, -⟩ := (demandCandidate_iff p s).mp (roundRobin_spec hp)
    have hissued : issued = false := by
      rcases (waitingDemand_iff p s o).mp ho with ⟨r', v', e', l', f', hport', -⟩ | ⟨r', v', hport', -⟩
      · rw [hport] at hport'
        cases hport'
      · rw [hport] at hport'
        cases hport'
        rfl
    rw [hissued] at hport
    rw [exec_grant_of_choice hi (grantChoice_demand hm hu hp)]
    exact congrArg _ (issueDemand_pass (s := beginEvent s) hport)
  · rw [exec_grant_of_choice hi (grantChoice_prefetch hm hu hd hhead hp)]
    exact congrArg _ (issuePrefetch_eq (s := beginEvent s) he hentry)

/-- Settles O28: in Loading the loader's read is the only choice. -/
theorem grantIssuesTheLoadersRead : Obligations.GrantIssuesTheLoadersRead := by
  refine ⟨fun s => ⟨fun i hi hm ho => ?_, fun h => exec_grant_of_nothing (.inl h), fun hm ho => ?_⟩, fun l => ⟨fun h => ?_,
    fun k m h => ?_⟩⟩
  · have htimeout : timeoutOf s = 1024 := by simp [timeoutOf, hm, Config.loadingTimeout]
    rw [exec_grant_of_choice hi (by rw [grantChoice_loading hm, if_pos ho])]
    refine congrArg _ ((issueIn_eq i .loader _ _).trans ?_)
    rw [← htimeout]
    rfl
  · exact exec_grant_of_nothing (.inr (by rw [grantChoice_loading hm, ho]; rfl))
  · simp only [Loader.readAddr, h]
  · simp only [Loader.readAddr, h]

end Sys2Proof.Machine
end

section
/-! The setup block (R171, R178): its words, its checks and what it installs, in the numbers of the manual. -/

namespace Sys2Proof.Machine

open Sys2Proof.Safety

/-! ### Words and fields -/

theorem blockWord_of_line {b : List LineData} {k j : Nat} {line : LineData} (hk : b[k]? = some line) (hj : j < 8) :
    blockWord b (8 * k + j) = (line.extractLsb' (32 * j) 32).toNat := by
  have hline : (8 * k + j) / 8 = k := by omega
  have hplace : (8 * k + j) % 8 = j := by omega
  have hbit : 8 * (4 * j) = 32 * j := by omega
  unfold blockWord
  rw [hline, hplace, hk]
  simp only [wordAt, hbit]

theorem wordField_low (w n : Nat) : wordField w 0 n = w % 2 ^ n := by
  rw [wordField, pow_zero, Nat.div_one]

theorem blockSum_eq (b : List LineData) :
    blockSum b = ((List.range (8 + 4 * blockCount b + 1)).map (blockWord b)).sum := by
  rw [List.sum_eq_foldl, List.foldl_map]
  rfl

theorem portMask_get (m : Nat) (p : Port) : (portMask m).get p = m.testBit p.index := by
  cases p <;> rfl

/-! ### The checks -/

theorem headerPasses_iff (b : List LineData) :
    headerPasses b = true ↔ blockWord b 0 = 0x3A71C5E2 ∧ blockWord b 1 % 256 = 1 ∧ (1 ≤ blockCount b ∧ blockCount b ≤ 16) := by
  simp only [headerPasses, Bool.and_eq_true, decide_eq_true_eq, and_assoc, blockLevel, wordField_low]
  exact Iff.rfl

/-- What descriptor i has to hold (R171, check 10). -/
def DescriptorOK (w : Nat → Nat) (i : Nat) : Prop :=
  w (8 + 4 * i) ≤ w (9 + 4 * i) ∧ w (9 + 4 * i) ≤ 0xFFFF
    ∧ ((w (10 + 4 * i) % 65536).testBit 1 = true → (w (10 + 4 * i) % 65536).testBit 0 = true)
    ∧ w (10 + 4 * i) % 65536 < 32
    ∧ w (10 + 4 * i) / 65536 % 256 < 64 ∧ w (10 + 4 * i) / 16777216 % 256 < 64 ∧ w (11 + 4 * i) = 0

theorem descPasses_iff (b : List LineData) (i : Nat) : descPasses b i = true ↔ DescriptorOK (blockWord b) i := by
  have hattrs : ∀ x y : Bool, (!(x && !y)) = true ↔ (x = true → y = true) := by decide
  simp only [descPasses, Bool.and_eq_true, decide_eq_true_eq, and_assoc, hattrs, descAttributes, wordField_low]
  exact Iff.rfl

theorem bodyPasses_iff (b : List LineData) :
    bodyPasses b = true ↔
      blockWord b 1 / 65536 % 256 ≤ 15 ∧ (1 ≤ blockWord b 2 % 65536 ∧ blockWord b 2 % 65536 ≤ 4095)
        ∧ 1 ≤ blockWord b 2 / 65536 % 65536
        ∧ (1 ≤ blockWord b 1 / 16777216 % 256 ∧ blockWord b 1 / 16777216 % 256 ≤ 14)
        ∧ (blockWord b 3 % 32 = 0 ∧ blockWord b 3 + 192 ≤ 0x10000000)
        ∧ (blockWord b 4 = 0 ∧ blockWord b 5 = 0 ∧ blockWord b 6 = 0 ∧ blockWord b 7 = 0)
        ∧ (∀ i, i < blockCount b → DescriptorOK (blockWord b) i)
        ∧ ((List.range (8 + 4 * blockCount b + 1)).map (blockWord b)).sum % 2 ^ 32 = 0 := by
  simp only [bodyPasses, Bool.and_eq_true, decide_eq_true_eq, and_assoc, List.all_eq_true, List.mem_range, descPasses_iff,
    List.forall_mem_cons, List.not_mem_nil, false_implies, implies_true, and_true, blockSum_eq, blockClaimHold, wordField_low]
  exact Iff.rfl

theorem loadResult_loaded_iff (b : List LineData) :
    loadResult b = .loaded (setupOf b) ↔ headerPasses b = true ∧ bodyPasses b = true := by
  unfold loadResult
  rw [← Bool.and_eq_true]
  split
  next h => simp [h]
  next h => simp [h]

theorem loadResult_cases (b : List LineData) : loadResult b = .loaded (setupOf b) ∨ loadResult b = .fallback := by
  unfold loadResult
  split
  · exact .inl rfl
  · exact .inr rfl

/-! ### What is installed -/

theorem setupOf_window {b : List LineData} {i : Nat} {win : Window} (h : (setupOf b).windows[i]? = some win) :
    win = descWindow b i := by
  simp only [setupOf, List.getElem?_map, Option.map_eq_some_iff] at h
  obtain ⟨j, hj, rfl⟩ := h
  rw [(List.getElem?_eq_some_iff.mp hj).2.symm, List.getElem_range]

/-- Settles O42: word by word, check by check, field by field. -/
theorem setupBlockIsCheckedByField : Obligations.SetupBlockIsCheckedByField := by
  rintro b w n rfl rfl
  have hcheck : loadResult b = .loaded (setupOf b) ↔ _ :=
    (loadResult_loaded_iff b).trans (and_congr (headerPasses_iff b) (bodyPasses_iff b))
  refine ⟨fun k j line => blockWord_of_line, loadResult_cases b, ?_, ?_, fun i win hwin => ?_, rfl, rfl, wordField_low _ 16, rfl,
    rfl, rfl, headerPasses_iff b⟩
  · simp only [and_assoc] at hcheck ⊢
    exact hcheck
  · exact (List.length_map _).trans List.length_range
  · rw [setupOf_window hwin]
    refine ⟨rfl, rfl, ?_, fun p => ⟨portMask_get _ p, portMask_get _ p⟩⟩
    simp only [descWindow, descAttributes, wordField_low]
    rfl

end Sys2Proof.Machine
end

section
/-! Steps on an empty queue (R33, R34, R88), the reset values, requests held on their links (R116, R120) and load completion
(R172, R173). -/

namespace Sys2Proof.Machine

open Sys2Proof.Safety

/-- Settles O1: by the definition of a step. -/
theorem stepRunsFrontCommand : Obligations.StepRunsFrontCommand := fun _ _ => rfl

/-! ### Due expiries -/

theorem filterMap_ix4_single {α : Type} {f : Ix4 → Option α} {c : Ix4} {x : α} (hc : f c = some x)
    (hother : ∀ c', c' ≠ c → f c' = none) : Ix4.all.filterMap f = [x] := by
  cases c
  · simp [Ix4.all, hc, hother .i1, hother .i2, hother .i3]
  · simp [Ix4.all, hc, hother .i0, hother .i2, hother .i3]
  · simp [Ix4.all, hc, hother .i0, hother .i1, hother .i3]
  · simp [Ix4.all, hc, hother .i0, hother .i1, hother .i2]

/-- The hold expiry due of one place of the Claim Table. -/
def dueHold (s : State) (c : Ix4) : Option Expiry :=
  match s.claimTable.get c with
  | some cl => if cl.timer = some 0 then some (.hold c cl.order) else none
  | none => none

/-- The timeout due of one slot. -/
def dueOperation (s : State) (i : Ix4) : Option Expiry :=
  match (s.slots.get i).occupant with
  | some o => if o.timer = 0 then some (.operation ⟨i, o.gen⟩) else none
  | none => none

theorem dueHolds_eq (s : State) : dueHolds s = Ix4.all.filterMap (dueHold s) := rfl

theorem dueOperations_eq (s : State) : dueOperations s = Ix4.all.filterMap (dueOperation s) := rfl

theorem dueHold_of_due {s : State} {c : Ix4} {cl : Claim} (h : s.claimTable.get c = some cl) (ht : cl.timer = some 0) :
    dueHold s c = some (.hold c cl.order) := by
  simp only [dueHold, h, if_pos ht]

theorem dueHold_of_notDue {s : State} {c : Ix4} (h : ∀ cl, s.claimTable.get c = some cl → cl.timer ≠ some 0) :
    dueHold s c = none := by
  unfold dueHold
  split
  next cl hcl => exact if_neg (h cl hcl)
  next => rfl

theorem dueOperation_of_due {s : State} {i : Ix4} {o : Occupant} (h : (s.slots.get i).occupant = some o) (ht : o.timer = 0) :
    dueOperation s i = some (.operation ⟨i, o.gen⟩) := by
  simp only [dueOperation, h, if_pos ht]

theorem dueOperation_of_notDue {s : State} {i : Ix4} (h : ∀ o, (s.slots.get i).occupant = some o → o.timer ≠ 0) :
    dueOperation s i = none := by
  unfold dueOperation
  split
  next o ho => exact if_neg (h o ho)
  next => rfl

theorem dueHolds_none {s : State} (h : ∀ c cl, s.claimTable.get c = some cl → cl.timer ≠ some 0) : dueHolds s = [] := by
  rw [dueHolds_eq, List.filterMap_eq_nil_iff]
  exact fun c _ => dueHold_of_notDue (h c)

theorem dueOperations_none {s : State} (h : ∀ i o, (s.slots.get i).occupant = some o → o.timer ≠ 0) : dueOperations s = [] := by
  rw [dueOperations_eq, List.filterMap_eq_nil_iff]
  exact fun i _ => dueOperation_of_notDue (h i)

theorem step_of_empty {s : State} (h : s.pending = []) : step s = .next (tickEvent (beginEvent s)) := by
  unfold step
  rw [h]

theorem tickEvent_nothingDue {s : State} (h : dueHolds s ++ dueOperations s = []) : tickEvent s = countBoundary s := by
  unfold tickEvent
  rw [h]

theorem tickEvent_oneDue {s : State} {x : Expiry} (h : dueHolds s ++ dueOperations s = [x]) : tickEvent s = takeExpiry x s := by
  unfold tickEvent
  rw [h]

/-- Settles O2: no expiry due, one hold due, one timeout due. -/
theorem emptyQueueCountsTime : Obligations.EmptyQueueCountsTime := by
  intro s hempty
  rw [step_of_empty hempty]
  refine ⟨fun hholds hops => ?_, fun c cl hcl htimer honly hops => ?_, fun i o ho htimer honly hholds => ?_⟩
  · have hnone : dueHolds (beginEvent s) ++ dueOperations (beginEvent s) = [] := by
      rw [dueHolds_none (s := beginEvent s) hholds, dueOperations_none (s := beginEvent s) hops, List.nil_append]
    rw [tickEvent_nothingDue hnone]
    exact ⟨_, rfl, fun c => Quad.get_map .., fun i => Quad.get_map .., rfl⟩
  · have hone : dueHolds (beginEvent s) ++ dueOperations (beginEvent s) = [.hold c cl.order] := by
      rw [dueOperations_none (s := beginEvent s) hops, List.append_nil, dueHolds_eq]
      exact filterMap_ix4_single (dueHold_of_due (s := beginEvent s) hcl htimer)
        fun c' hc' => dueHold_of_notDue fun cl' hcl' ht' => hc' (honly c' cl' hcl' ht')
    rw [tickEvent_oneDue hone]
    rfl
  · have hone : dueHolds (beginEvent s) ++ dueOperations (beginEvent s) = [.operation ⟨i, o.gen⟩] := by
      rw [dueHolds_none (s := beginEvent s) hholds, List.nil_append, dueOperations_eq]
      exact filterMap_ix4_single (dueOperation_of_due (s := beginEvent s) ho htimer)
        fun j hj => dueOperation_of_notDue fun o' ho' ht' => hj (honly j o' ho' ht')
    rw [tickEvent_oneDue hone]
    rfl

/-! ### Resets -/

/-- Settles O4: the reset state field by field, and the tables' reads after a write. -/
theorem resetStateValues : Obligations.ResetStateValues := by
  refine ⟨fun p => PerPort.get_const _ p, fun p => PerPort.get_const _ p, rfl, rfl, fun c => Quad.get_const _ c,
    fun p => PerPort.get_const _ p, fun p => PerPort.get_const _ p, rfl, rfl, fun i => Quad.get_const _ i, rfl, rfl,
    fun p => PerPort.get_const _ p, rfl, rfl, rfl, rfl, rfl, rfl, rfl, rfl, rfl, rfl, rfl, rfl, rfl,
    fun α v p q x => PerPort.get_set v p q x, fun α v i j x => Quad.get_set v i j x⟩

/-- Settles O5: both commands write every block, from the reset state. -/
theorem resetAbandonsEverythingThenLoads : Obligations.ResetAbandonsEverythingThenLoads := by
  intro s
  refine ⟨rfl, fun h => ⟨releaseReset s, ?_, rfl, fun p => ?_, rfl⟩⟩
  · change execResetRelease s = _
    unfold execResetRelease
    rw [if_pos h]
  · cases p <;> rfl

/-! ### Requests on their links -/

theorem PerPort.set_set {α : Type} (v : PerPort α) (p : Port) (x y : α) : (v.set p x).set p y = v.set p y := by
  cases p <;> rfl

/-- The request is still on the link, or its port has accepted it: the device serves and the port's line is released. -/
def HeldOrAccepted (p : Port) (r : Request) (s : State) : Prop :=
  s.links.get p = some r ∨ (s.links.get p = none ∧ s.mode = .serving ∧ s.presetLines.get p = false)

theorem heldOrAccepted_of_links {p : Port} {r : Request} {s t : State} (hl : t.links = s.links)
    (h : s.links.get p = some r) : HeldOrAccepted p r t := .inl (by rw [hl]; exact h)

theorem heldOrAccepted_congr {p : Port} {r : Request} {s t : State} (hsame : SameLinkSide s t) (h : HeldOrAccepted p r s) :
    HeldOrAccepted p r t := by
  obtain ⟨hl, hm, hp⟩ := hsame
  unfold HeldOrAccepted
  rw [hl, hm, hp]
  exact h

theorem heldOrAccepted_setLink {p q : Port} (hq : q ≠ p) {r : Request} {s : State} (x : Option Request)
    (h : HeldOrAccepted p r s) : HeldOrAccepted p r (s.setLink q x) := by
  have hl : (s.links.set q x).get p = s.links.get p := PerPort.get_set_other _ _ hq.symm
  unfold HeldOrAccepted State.setLink
  rw [hl]
  exact h

theorem heldOrAccepted_acceptFromLink {p : Port} {r : Request} {s : State} (q : Port) (h : HeldOrAccepted p r s) :
    HeldOrAccepted p r (acceptFromLink q s) := by
  unfold acceptFromLink
  split
  next r' hr' =>
    split
    next hcan =>
      refine heldOrAccepted_congr (linkSide_accept q r' (s.setLink q none)) ?_
      by_cases hq : q = p
      · subst hq
        obtain ⟨-, hm, hline⟩ := (canAccept_iff q s).mp hcan
        exact .inr ⟨PerPort.get_set_same _ _ _, hm, hline⟩
      · exact heldOrAccepted_setLink hq none h
    next => exact h
  next => exact h

theorem heldOrAccepted_foldl {p : Port} {r : Request} (ps : List Port) {s : State} (h : HeldOrAccepted p r s) :
    HeldOrAccepted p r (ps.foldl (fun t q => acceptFromLink q t) s) := by
  induction ps generalizing s with
  | nil => exact h
  | cons q rest ih => exact ih (heldOrAccepted_acceptFromLink q h)

theorem heldOrAccepted_finishEvent {p : Port} {r : Request} {s : State} (h : HeldOrAccepted p r s) :
    HeldOrAccepted p r (finishEvent s) := by
  have hheld : HeldOrAccepted p r (acceptHeld s) := by
    unfold acceptHeld
    split
    · exact h
    · exact heldOrAccepted_acceptFromLink _ h
    · exact heldOrAccepted_foldl _ h
  unfold finishEvent
  rcases hheld with hlink | ⟨hlink, hm, hline⟩
  · exact heldOrAccepted_of_links (drainTest_links _) hlink
  · rw [drainTest_notDraining _ (by rw [hm]; nofun)]
    exact .inr ⟨hlink, hm, hline⟩

theorem heldOrAccepted_present {p q : Port} (hq : q ≠ p) {r r' : Request} {s : State} (h : HeldOrAccepted p r s) :
    HeldOrAccepted p r (present q r' s) := by
  unfold present
  split
  · exact heldOrAccepted_congr (linkSide_accept q r' _) (heldOrAccepted_setLink hq none h)
  · exact heldOrAccepted_setLink hq _ h

theorem takeReloadEdge_links (s : State) : (takeReloadEdge s).links = s.links := by
  unfold takeReloadEdge
  split
  · rfl
  · split
    · rw [drainStart_frame]
    · rfl
    · rfl

theorem keepOrWithdraw_otherLink {p q : Port} (hq : q ≠ p) (s : State) :
    (keepOrWithdraw q s).links.get p = s.links.get p := by
  unfold keepOrWithdraw
  split
  · exact PerPort.get_set_other _ _ hq.symm
  · rfl

theorem assertPreset_links (q : Port) (s : State) : (assertPreset q s).links = s.links := by
  have hreset : (resetPort q s).links = s.links := by rw [resetPort_frame]
  unfold assertPreset
  split
  · exact (linkSide_spacePass (resetPort q s)).1.trans hreset
  · exact hreset

theorem releasePreset_links (q : Port) (s : State) : (releasePreset q s).links = s.links := by
  rw [releasePreset_eq]

/-- A command that presents nothing on the link and does not reset its port leaves the request there or accepts it. -/
theorem exec_keepsHeldRequest {c : Instr} {p : Port} {r : Request} {s : State} (h : s.links.get p = some r)
    (hc : ∀ r', requestOf c ≠ some (p, r')) (hne : c ≠ .presetAssert p) :
    ∃ t, exec c s = .next t ∧ HeldOrAccepted p r t := by
  have hbegin : HeldOrAccepted p r (beginEvent s) := .inl h
  have hends : ∀ u : State, u.links = s.links → HeldOrAccepted p r (finishEvent u) := fun u hu =>
    heldOrAccepted_finishEvent (heldOrAccepted_of_links hu h)
  cases hreq : requestOf c with
  | some qr =>
    obtain ⟨q, r'⟩ := qr
    have hq : q ≠ p := fun hqp => hc r' (by rw [hreq, hqp])
    exact ⟨_, exec_of_requestOf hreq s, heldOrAccepted_present hq hbegin⟩
  | none =>
    cases hcomp : completionOf c with
    | some tc => exact ⟨_, exec_of_completionOf hcomp s, hends _ (arriveCompletion_links ..)⟩
    | none =>
      cases c with
      | spaceArbiterPass => exact ⟨_, rfl, hends _ (linkSide_spacePass (beginEvent s)).1⟩
      | grant => exact ⟨_, rfl, heldOrAccepted_of_links (grantOnce_links (beginEvent s)) h⟩
      | downstreamTimeout t => exact ⟨_, rfl, hends _ (takeTimeout_links t (beginEvent s))⟩
      | holdExpiry i stamp => exact ⟨_, rfl, .inl (by rw [takeHoldExpiry_frame]; exact h)⟩
      | reloadEdge => exact ⟨_, rfl, hends _ (takeReloadEdge_links (beginEvent s))⟩
      | drainCompletion => exact ⟨_, rfl, heldOrAccepted_of_links (drainTest_links (beginEvent s)) h⟩
      | resetAssert => exact ⟨_, rfl, .inl h⟩
      | resetRelease =>
        change ∃ t, execResetRelease s = .next t ∧ _
        unfold execResetRelease
        split
        · exact ⟨_, rfl, .inl h⟩
        · exact ⟨_, rfl, hbegin⟩
      | presetAssert q =>
        have hq : q ≠ p := fun hqp => hne (by rw [hqp])
        have hother : (assertPreset q (keepOrWithdraw q (beginEvent s))).links.get p = some r := by
          rw [assertPreset_links, keepOrWithdraw_otherLink hq]
          exact h
        change ∃ t, execPresetAssert q s = .next t ∧ _
        unfold execPresetAssert
        split
        · exact ⟨_, rfl, hbegin⟩
        · split
          · exact ⟨_, rfl, .inl h⟩
          · exact ⟨_, rfl, heldOrAccepted_finishEvent (.inl hother)⟩
      | presetRelease q =>
        rw [exec_presetRelease]
        split
        · exact ⟨_, rfl, hends _ (releasePreset_links q (beginEvent s))⟩
        · exact ⟨_, rfl, hbegin⟩
      | _ => simp [requestOf, completionOf] at hreq hcomp

/-- What the link held before leaves no trace (log entry 15). -/
theorem present_replaces (p : Port) (r : Request) (s : State) :
    present p r { s with links := s.links.set p none } = present p r s := by
  have hset : ∀ x, State.setLink { s with links := s.links.set p none } p x = s.setLink p x := fun x => by
    simp only [State.setLink, PerPort.set_set]
  unfold present
  rw [hset, hset]
  rfl

/-- Settles O9: a withheld request, a held one, and the nine requests. -/
theorem withheldRequestStaysOnLink : Obligations.WithheldRequestStaysOnLink := by
  refine ⟨fun c p r s hc => ⟨fun hwithheld => ?_, ?_⟩, fun c p r s t h hc hne ht => ?_,
    fun p sel op a size d => ⟨rfl, rfl, rfl, rfl, rfl, rfl, rfl, rfl, rfl⟩⟩
  · have hcan : canAccept p (beginEvent s) = false := by
      rw [← Bool.not_eq_true, canAccept_iff]
      rintro ⟨hidle, hm, hline⟩
      rcases hwithheld with hport | hmode | hpreset
      · exact hport hidle
      · exact hmode hm
      · rw [show s.presetLines.get p = false from hline] at hpreset
        cases hpreset
    rw [exec_of_requestOf hc, present_hold p r (beginEvent s) hcan]
    rfl
  · rw [exec_of_requestOf hc, exec_of_requestOf hc]
    exact congrArg _ (present_replaces p r (beginEvent s)).symm
  · obtain ⟨t', ht', hheld⟩ := exec_keepsHeldRequest h hc hne
    rw [ht] at ht'
    cases ht'
    exact hheld

/-! ### Load completion and what a configuration has in force -/

theorem loadComplete_serves {result : Configuration} {s : State} (h : s.reloadLatch = false) :
    loadComplete result s =
      { s with
        config := result
        lineSets := PerPort.const LineSet.allEmpty
        recordLost := false
        mode := .serving
        loader := { s.loader with phase := .ended, offered := false, block := [] } } := by
  unfold loadComplete
  simp only [h, Bool.false_eq_true, if_false]

theorem loadComplete_loadsAgain {result : Configuration} {s : State} (h : s.reloadLatch = true) :
    loadComplete result s =
      { s with
        config := result
        lineSets := PerPort.const LineSet.allEmpty
        recordLost := false
        mode := .loading
        reloadLatch := false
        straps := Config.strapLevels s.freeCount
        freeCount := s.freeCount + 1
        loader := ⟨.header, true, BitVec.ofNat 28 (0x400000 * (Config.strapLevels s.freeCount).toNat), []⟩ } := by
  unfold loadComplete
  simp only [h, if_true]
  rfl

theorem setupOK_iff (s : State) : setupOK s = true ↔ s.mode ≠ .loading ∧ ∃ b, s.config = .loaded b := by
  unfold setupOK
  cases s.config <;> simp

theorem loadingDefaults {s : State} (h : s.mode = .loading ∨ s.config = .fallback) :
    tickExponentOf s = 10 ∧ timeoutOf s = 1024 := by
  unfold tickExponentOf timeoutOf
  rcases h with h | h
  · simp [h, Config.loadingTickExponent, Config.loadingTimeout]
  · cases hm : s.mode <;> simp [h, Config.loadingTickExponent, Config.loadingTimeout]

theorem installedParameters {s : State} {b : Setup} (hm : s.mode ≠ .loading) (hc : s.config = .loaded b) :
    tickExponentOf s = b.tickExponent ∧ timeoutOf s = b.timeout := by
  unfold tickExponentOf timeoutOf
  cases h : s.mode with
  | loading => exact absurd h hm
  | _ => simp [hc]

theorem acceptFromLink_of_link {p : Port} {r : Request} {s : State} (hl : s.links.get p = some r)
    (hc : canAccept p s = true) : acceptFromLink p s = accept p r (s.setLink p none) := by
  simp only [acceptFromLink, hl, hc, if_true]

/-- Settles O43: the two ways a load ends, and the configurations' values. -/
theorem loadCompletionInstallsTheResult : Obligations.LoadCompletionInstallsTheResult := by
  refine ⟨?_, fun b => ⟨rfl, rfl, rfl, rfl⟩, rfl, rfl, rfl, rfl,
    fun s => ⟨loadingDefaults, fun b => installedParameters, rfl, setupOK_iff s, rfl⟩, rfl, fun e => Quad.get_const _ e⟩
  rintro result s t rfl
  refine ⟨loadComplete_serves, loadComplete_loadsAgain, ?_, ?_, fun p r hlatch hlink hidle hline hothers => ?_⟩
  · cases hlatch : s.reloadLatch with
    | false => rw [loadComplete_serves hlatch]; rfl
    | true => rw [loadComplete_loadsAgain hlatch]; rfl
  · rw [setupOK_iff]
    cases hlatch : s.reloadLatch with
    | false => rw [loadComplete_serves hlatch]; simp
    | true => rw [loadComplete_loadsAgain hlatch]; simp
  · have hserves := loadComplete_serves (result := result) hlatch
    generalize loadComplete result s = u at hserves ⊢
    subst hserves
    rw [finishEvent_onlyPort p rfl]
    · have hcan : canAccept p
          { s with
            config := result
            lineSets := PerPort.const LineSet.allEmpty
            recordLost := false
            mode := .serving
            loader := { s.loader with phase := .ended, offered := false, block := [] } } = true :=
        (canAccept_iff p _).mpr ⟨hidle, rfl, hline⟩
      exact acceptFromLink_of_link hlink hcan
    · rintro q hq ⟨hqlink, hqidle, -, hqline⟩
      rcases hothers q hq with h | h | h
      · exact hqlink h
      · exact h hqidle
      · rw [show s.presetLines.get q = false from hqline] at h
        cases h

end Sys2Proof.Machine
end
